-- ==== Sys2Proof/Word.lean ====
section
/-! DEFINITION. The byte, the one word of the FG7140's three byte formats (12_frame_and_image_formats.md). -/

namespace Sys2Proof

/-- A byte of the plan image, of a signalling frame or of a management frame (12). -/
abbrev Byte := BitVec 8

/-- The byte that carries a number below 256 (12: every enumeration and every short field takes one byte). -/
abbrev byte (n : Nat) : Byte := BitVec.ofNat 8 n

end Sys2Proof
end

