-- ==== Sys2Proof/Syntax.lean ====
section
/-! DEFINITION. The commands of the block: one constructor of `Instr` for each row of spec/opcode_table.json, with
the row's operands, and the small types those operands need. -/

namespace Sys2Proof

/-- The two sides of a node, and the two directions round the ring (00 Ring geometry; 12.4 Side, direction). -/
inductive Side where
  | east
  | west
deriving DecidableEq, Repr

/-- The two ends of a span: the West-end node i and the East-end node i+1 of span i (05 R65). -/
inductive SpanEnd where
  | westEnd
  | eastEnd
deriving DecidableEq, Repr

/-- The three signalling rates (04 R45). -/
inductive Rate where
  | fast
  | middle
  | slow
deriving DecidableEq, Repr

/-- The two errors of a received frame that are counted (04 R54, R55). -/
inductive FrameError where
  | checkError
  | framingError
deriving DecidableEq, Repr

/-- The frame kinds of a signalling channel (12.2). -/
inductive FrameKind where
  | pace
  | ready
  | idle
  | loopTest
  | spanNotice
  | restartNotice
  | detourClaim
  | grant
  | refusal
  | release
deriving DecidableEq, Repr

/-- A signalling frame without its delimiter, length and CRC: those are made afresh for each sending (12 R196). -/
structure Frame where
  kind : FrameKind
  body : List Byte
deriving DecidableEq, Repr

/-- Why a command frame is answered without naming a command (11 R180, R181 steps 2 and 3). -/
inductive BadFrameWhy where
  | abandoned
  | badCheck
  | unknownCode
deriving DecidableEq, Repr

/-- The commands: one constructor for each row of spec/opcode_table.json, in the table's order. A management command
carries the parameter bytes of its frame as they arrived, so that step 5 of R181 is judged by the model. -/
inductive Instr where
  /-- POWER_ON_RESET (01 R4) -/
  | powerOnReset
  /-- PIN_RESET (01 R4): the release of RSTN -/
  | pinReset
  /-- COMMAND_RESET (11 R191) -/
  | commandReset
  /-- CLOCK_TICK (02 R19) -/
  | clockTick
  /-- START_DELAY_EXPIRY (01 R5) -/
  | startDelayExpiry
  /-- HEADER_READ_COMPLETE (01 R7): the header bytes read -/
  | headerReadComplete (bytes : List Byte)
  /-- IMAGE_READ_COMPLETE (01 R7): the bytes read after the header -/
  | imageReadComplete (bytes : List Byte)
  /-- LIGHT_CHANGE (03 R28): light as it now is -/
  | lightChange (side : Side) (present : Bool)
  /-- FRAME_LOCK_CHANGE (03 R28): frame lock as it now is -/
  | frameLockChange (side : Side) (locked : Bool)
  /-- ERRORED_BLOCK_PULSE (03 R36) -/
  | erroredBlockPulse (side : Side)
  /-- HOLD_OFF_EXPIRY (03 R33) -/
  | holdOffExpiry (side : Side)
  /-- CLEAR_SOAK_EXPIRY (03 R35) -/
  | clearSoakExpiry (side : Side)
  /-- WINDOW_BOUNDARY_EXPIRY (03 R37) -/
  | windowBoundaryExpiry (side : Side)
  /-- HAIL_SEQUENCE_EXPIRY (04 R47) -/
  | hailSequenceExpiry (side : Side)
  /-- HAIL_BURST_EXPIRY (04 R47) -/
  | hailBurstExpiry (side : Side)
  /-- HAIL_ANSWER_GUARD_EXPIRY (02 R27) -/
  | hailAnswerGuardExpiry (side : Side)
  /-- RECEIVED_BURST_START (04 R48) -/
  | receivedBurstStart (side : Side)
  /-- RECEIVED_BURST_END (04 R48) -/
  | receivedBurstEnd (side : Side)
  /-- HAIL_GAP_LIMIT_EXPIRY (04 R48) -/
  | hailGapLimitExpiry (side : Side)
  /-- RATE_WINDOW_EXPIRY (04 R50) -/
  | rateWindowExpiry (side : Side)
  /-- LISTENING_EXPIRY (04 R51) -/
  | listeningExpiry (side : Side)
  /-- READYING_EXPIRY (04 R52) -/
  | readyingExpiry (side : Side)
  /-- FAILED_HOLD_EXPIRY (04 R62) -/
  | failedHoldExpiry (side : Side)
  /-- SILENCE_EXPIRY (04 R58) -/
  | silenceExpiry (side : Side)
  /-- KEEPALIVE_EXPIRY (04 R59) -/
  | keepaliveExpiry (side : Side)
  /-- LOOP_RETURN_EXPIRY (04 R64) -/
  | loopReturnExpiry (side : Side)
  /-- PACE_FRAME_RECEIVED (04 R50): a valid Pace frame at a rate -/
  | paceFrameReceived (side : Side) (rate : Rate)
  /-- READY_FRAME_RECEIVED (04 R52) -/
  | readyFrameReceived (side : Side) (rate : Rate)
  /-- IDLE_FRAME_RECEIVED (04 R58) -/
  | idleFrameReceived (side : Side) (rate : Rate)
  /-- LOOP_TEST_FRAME_RECEIVED (04 R63): its sequence byte -/
  | loopTestFrameReceived (side : Side) (rate : Rate) (seq : Byte)
  /-- HELD_FRAME_RECEIVED (04 R57): a valid notice or claim-family frame -/
  | heldFrameReceived (side : Side) (rate : Rate) (frame : Frame)
  /-- ERRORED_FRAME (04 R56) -/
  | erroredFrame (side : Side) (error : FrameError)
  /-- FRAME_SEND_COMPLETE (04 R59) -/
  | frameSendComplete (side : Side)
  /-- REFRESH_EXPIRY (05 R69) -/
  | refreshExpiry (side : Side)
  /-- FRESHNESS_EXPIRY (05 R74): of one end report of one span -/
  | freshnessExpiry (span : Nat) (theEnd : SpanEnd)
  /-- RESTART_GUARD_EXPIRY (05 R83): of one origin and arrival side -/
  | restartGuardExpiry (origin : Nat) (side : Side)
  /-- SPAN_NOTICE (05 R72): NRV takes a Span Notice from the holding of a side -/
  | spanNotice (side : Side)
  /-- RESTART_NOTICE (05 R82) -/
  | restartNotice (side : Side)
  /-- CCL_SPAN_CHANGE (06 R90) -/
  | cclSpanChange
  /-- CCL_SEGMENT_MAP (10 R177) -/
  | cclSegmentMap
  /-- CCL_RESTART (10 R175) -/
  | cclRestart
  /-- CCL_SECOND_RESTART (10 R176) -/
  | cclSecondRestart
  /-- DCE_LOCKED_CHANGE (08 R126) -/
  | dceLockedChange
  /-- SELF_CLEAN (08 R145) -/
  | selfClean
  /-- DCE_RESTART (08 R146) -/
  | dceRestart
  /-- CLAIM_TIMEOUT_EXPIRY (06 R97): of one head circuit -/
  | claimTimeoutExpiry (id : Nat)
  /-- WAIT_TO_RESTORE_EXPIRY (10 R165): of one head circuit -/
  | waitToRestoreExpiry (id : Nat)
  /-- DETOUR_CLAIM (08 R136): DCE takes a Detour Claim from the holding of a side -/
  | detourClaim (side : Side)
  /-- GRANT (08 R134) -/
  | grant (side : Side)
  /-- REFUSAL (08 R135) -/
  | refusal (side : Side)
  /-- RELEASE (08 R140) -/
  | release (side : Side)
  /-- PENDING_EXPIRY (08 R144): of one Spare Lane Map entry -/
  | pendingExpiry (side : Side) (lane : Nat)
  /-- LSACK_READY (09 R150): LSACK as it now shows -/
  | lsackReady (ready : Bool)
  /-- BUS_TRANSFER_END (09 R151) -/
  | busTransferEnd
  /-- SETTLE_EXPIRY (09 R152): of one cross-connect record -/
  | settleExpiry (side : Side) (lane : Nat)
  /-- HOMING_STEP_EXPIRY (09 R156): of the slot a port holds -/
  | homingStepExpiry (port : Nat)
  /-- STEP_EXPIRY (09 R159): of the slot a port holds -/
  | stepExpiry (port : Nat)
  /-- HOME_INDICATION (09 R156): the home indication as it now is -/
  | homeIndication (port : Nat) (asserted : Bool)
  /-- PORT_FAULT_ONSET (09 R161) -/
  | portFaultOnset (port : Nat)
  /-- PORT_FAULT_END (09 R161) -/
  | portFaultEnd (port : Nat)
  /-- STATUS_QUERY (11 R183) -/
  | statusQuery (params : List Byte)
  /-- SPAN_QUERY (11 R184) -/
  | spanQuery (params : List Byte)
  /-- CIRCUIT_QUERY (11 R186) -/
  | circuitQuery (params : List Byte)
  /-- CIRCUIT_FIND (11 R187) -/
  | circuitFind (params : List Byte)
  /-- LANE_QUERY (11 R185) -/
  | laneQuery (params : List Byte)
  /-- PORT_QUERY (11 R185) -/
  | portQuery (params : List Byte)
  /-- PLAN_QUERY (11 R186) -/
  | planQuery (params : List Byte)
  /-- CIRCUIT_REQUEST_PIN (06 R106) -/
  | circuitRequestPin (params : List Byte)
  /-- CIRCUIT_REQUEST_FORCED (06 R106) -/
  | circuitRequestForced (params : List Byte)
  /-- CIRCUIT_REQUEST_MANUAL (06 R106) -/
  | circuitRequestManual (params : List Byte)
  /-- CIRCUIT_REQUEST_RETURN (06 R107) -/
  | circuitRequestReturn (params : List Byte)
  /-- CIRCUIT_REQUEST_CLEAR (06 R106) -/
  | circuitRequestClear (params : List Byte)
  /-- SET_FORCED_OUT (03 R39) -/
  | setForcedOut (params : List Byte)
  /-- CLEAR_FORCED_OUT (03 R39) -/
  | clearForcedOut (params : List Byte)
  /-- SET_SPARES_LOCKED (03 R40) -/
  | setSparesLocked (params : List Byte)
  /-- CLEAR_SPARES_LOCKED (03 R40) -/
  | clearSparesLocked (params : List Byte)
  /-- DEMOTE (11 R189) -/
  | demote (params : List Byte)
  /-- RESTORE_PLAN (01 R15) -/
  | restorePlan (params : List Byte)
  /-- FREEZE_PLAN (01 R17) -/
  | freezePlan (params : List Byte)
  /-- REHOME_PORT (09 R162) -/
  | rehomePort (params : List Byte)
  /-- LOOP_TEST (04 R63) -/
  | loopTest (params : List Byte)
  /-- FETCH_EVENTS (11 R193) -/
  | fetchEvents (params : List Byte)
  /-- WARM_RESET (11 R191) -/
  | warmReset (params : List Byte)
  /-- BAD_FRAME (11 R181) -/
  | badFrame (why : BadFrameWhy)
  /-- RESPONSE_SEND_COMPLETE (11 R182) -/
  | responseSendComplete
  /-- RSTN_ASSERTED (01 R4) -/
  | rstnAsserted
deriving DecidableEq, Repr

end Sys2Proof
end

