-- ==== Sys2Proof/Config.lean ====
section
/-! DEFINITION. The constants the manual fixes: extents, capacities and fixed durations in ticks of 10 µs. The spec
leaves no value free (no result is undefined or unpredictable), so no opaque constant stands here. -/

namespace Sys2Proof.Config

/-- The largest tick count, FFFFFFFFFFFFh (02 R19). -/
def maxTick : Nat := 281474976710655
/-- The largest ring size and the size of every table kept per origin (01 R7, 05 R84). -/
def maxNodes : Nat := 24
/-- Lanes of a span (00 Lanes). -/
def lanes : Nat := 48
/-- Ports (09 R154). -/
def ports : Nat := 12
/-- Stepping slots (09 R155). -/
def slots : Nat := 4
/-- Claim window slots (06 R93). -/
def window : Nat := 8
/-- Attempts of one episode (06 R97). -/
def attempts : Nat := 3
/-- Entries of the Event Report Queue, the Overflow marker included (11 R192). -/
def eventCapacity : Nat := 64
/-- Frames of the receive holding (04 R57). -/
def holdingCapacity : Nat := 4
/-- Frames of the transmit queue (04 R60). -/
def txCapacity : Nat := 16
/-- Entries of the demotion list (01 R15). -/
def demotionCapacity : Nat := 192
/-- Busy responses the owed list holds (11 R182). -/
def busyCapacity : Nat := 255
/-- Largest hop budget of a frame (05 R70, 08 R128). -/
def maxHops : Nat := 23
/-- Homing steps without a home indication before the port faults (09 R156). -/
def homeSteps : Nat := 60
/-- Loop Test frames of one test (04 R63). -/
def loopFrames : Nat := 16
/-- Header, span record, circuit record and trailer sizes of the plan image (12.1). -/
def headerBytes : Nat := 32
def spanRecordBytes : Nat := 4
def circuitRecordBytes : Nat := 16
def trailerBytes : Nat := 2
/-- Largest plan image (01 R7). -/
def maxImage : Nat := 8192

/-- Start delay, 50 ms (01 R5). -/
def startDelay : Nat := 5000
/-- Degrade window, 100 ms (03 R36). -/
def degradeWindow : Nat := 10000
/-- Hail sequence period, 100 ms (04 R47). -/
def hailPeriod : Nat := 10000
/-- Hail burst, 1 ms, and gap between bursts, 3 ms (04 R47). -/
def hailBurst : Nat := 100
def hailGap : Nat := 300
/-- Bursts of a hail sequence sent (04 R47) and of a hail recognized (04 R48). -/
def hailBursts : Nat := 6
def hailCount : Nat := 4
/-- Shortest gap of a hail, 1.5 ms, and the hail gap limit, 4.5 ms (04 R48). -/
def minGap : Nat := 150
def maxGap : Nat := 450
/-- Hail answer guard, 10 ms (04 R47). -/
def answerGuard : Nat := 1000
/-- Rate window, 20 ms (04 R50). -/
def rateWindow : Nat := 2000
/-- Listening, 200 ms (04 R49). -/
def listening : Nat := 20000
/-- Readying, 100 ms (04 R50, R51). -/
def readying : Nat := 10000
/-- Failed hold, 1 s (04 R62). -/
def failedHold : Nat := 100000
/-- Silence, 50 ms (04 R53). -/
def silence : Nat := 5000
/-- Keepalive, 10 ms (04 R53). -/
def keepalive : Nat := 1000
/-- Loop return, 10 ms (04 R63). -/
def loopReturn : Nat := 1000
/-- Freshness and restart guard, in refresh intervals (05 R72, R82). -/
def freshIntervals : Nat := 4

/-- Rounds of the loop that takes the reports handed between blocks inside one step and serves the claim queue. Log 5
says why the loop ends long before: a head circuit starts at most three attempts for each detour it can lose in one
step, and a lost detour was a Held entry of this node. -/
def rounds : Nat := 4096

end Sys2Proof.Config
end

