-- ==== Sys2Proof/Machine/Codes.lean ====
section
/-! DEFINITION. Byte order, and the code values of sides, rates and frame kinds (12_frame_and_image_formats.md). The
codes of the enumerations held in State stand in Machine/Reply.lean. -/

namespace Sys2Proof

/-- A two-byte field, most significant byte first (12). -/
def bytes2 (n : Nat) : List Byte := [byte (n / 256), byte n]

/-- A six-byte field, most significant byte first: the clock and the deadline values (12 R199). -/
def bytes6 (n : Nat) : List Byte :=
  [byte (n / 1099511627776), byte (n / 4294967296), byte (n / 16777216), byte (n / 65536), byte (n / 256), byte n]

/-- A two-byte field read back. -/
def nat2 (hi lo : Byte) : Nat := hi.toNat * 256 + lo.toNat

/-- Byte `i` of a byte string; a byte that is not there reads as FFh, as a missing or blank configuration memory does
(01 R6). -/
def byteAt (bs : List Byte) (i : Nat) : Byte := bs.getD i 0xFF

/-- The one-byte field at offset `i`. -/
def field1 (bs : List Byte) (i : Nat) : Nat := (byteAt bs i).toNat

/-- The two-byte field at offset `i`. -/
def field2 (bs : List Byte) (i : Nat) : Nat := nat2 (byteAt bs i) (byteAt bs (i + 1))

/-- The sum of all bytes of a string, mod 256 (01 R7 check 9, 11 R180). -/
def byteSum (bs : List Byte) : Byte := bs.foldl (· + ·) 0

/-- The other side. -/
def Side.other : Side → Side
  | .east => .west
  | .west => .east

/-- 12.4: Side, direction. -/
def Side.code : Side → Nat
  | .east => 0
  | .west => 1

def Side.ofCode : Nat → Option Side
  | 0 => some .east
  | 1 => some .west
  | _ => none

/-- 12.4: Rate. -/
def Rate.code : Rate → Nat
  | .fast => 0
  | .middle => 1
  | .slow => 2

/-- A rate code that names no rate is replaced by Slow (01 R8); whether it was is counted by the loader. -/
def Rate.ofCode : Nat → Rate
  | 0 => .fast
  | 1 => .middle
  | _ => .slow

/-- Rates rank Fast, Middle, Slow from highest to lowest (04 R45). -/
def Rate.rank : Rate → Nat
  | .fast => 2
  | .middle => 1
  | .slow => 0

/-- The next lower rate; Slow has none (04 R50). -/
def Rate.lower : Rate → Option Rate
  | .fast => some .middle
  | .middle => some .slow
  | .slow => none

/-- 12.2: the kind codes. -/
def FrameKind.code : FrameKind → Byte
  | .pace => 0x01
  | .ready => 0x02
  | .idle => 0x03
  | .loopTest => 0x04
  | .spanNotice => 0x10
  | .restartNotice => 0x11
  | .detourClaim => 0x20
  | .grant => 0x21
  | .refusal => 0x22
  | .release => 0x23

def FrameKind.all : List FrameKind :=
  [.pace, .ready, .idle, .loopTest, .spanNotice, .restartNotice, .detourClaim, .grant, .refusal, .release]

def FrameKind.ofCode (b : Byte) : Option FrameKind := FrameKind.all.find? fun k => k.code = b

/-- 12.2: the one body length of each kind. -/
def FrameKind.bodyLength : FrameKind → Nat
  | .pace => 0
  | .ready => 0
  | .idle => 0
  | .loopTest => 1
  | .spanNotice => 7
  | .restartNotice => 2
  | .detourClaim => 11
  | .grant => 8
  | .refusal => 10
  | .release => 8

/-- The kinds NRV consumes (04 section 4.5). -/
def FrameKind.isNotice : FrameKind → Bool
  | .spanNotice => true
  | .restartNotice => true
  | _ => false

/-- The kinds DCE consumes: the claim family (04 section 4.5, 08 section 8.2). -/
def FrameKind.isClaimFamily : FrameKind → Bool
  | .detourClaim => true
  | .grant => true
  | .refusal => true
  | .release => true
  | _ => false

/-- The kinds that join the receive holding (04 R57). -/
def FrameKind.isHeld (k : FrameKind) : Bool := k.isNotice || k.isClaimFamily

/-- A frame that the receive holding may keep: of a held kind, with the one body length of its kind (04 R54, R57). -/
def Frame.holdable (f : Frame) : Bool := f.kind.isHeld && f.body.length == f.kind.bodyLength

/-- A relayed or forwarded frame changes only its hop budget, the last byte of its body (12 R196). -/
def Frame.withHops (hops : Nat) (f : Frame) : Frame := { f with body := f.body.dropLast ++ [byte hops] }

end Sys2Proof
end

