-- ==== Sys2Proof/WellFormed.lean ====
section
/-! DEFINITION. The commands whose operands the spec's formats can spell. `exec` is total all the same: an operand
out of these ranges names no record, port, lane or span, and the meaning then finds none. -/

namespace Sys2Proof

/-- The parameters of a split management row carry the byte that selects the row, or are out of step 5's form
altogether (R181): a well-formed command of the row `code` is 3 bytes long with that byte last. -/
def selects (params : List Byte) (at' : Nat) (code : Byte) : Bool :=
  params.length == 3 && byteAt params at' == code

/-- The request byte of a Circuit Request frame names a request (12.4); a frame of that code with another length or
request byte spells none. Such a frame is answered BadParameter (R181 step 5) and comes as the Pin row. -/
def spellsRequest (params : List Byte) : Bool :=
  params.length == 3 && 1 ≤ field1 params 2 && field1 params 2 ≤ 5

/-- The flag and action bytes of a Span Flags frame are codes of 12.4; another frame of that code comes as the Set
Forced Out row. -/
def spellsFlag (params : List Byte) : Bool :=
  params.length == 3 && field1 params 1 ≤ 1 && field1 params 2 ≤ 1

/-- A Span Flags row: side, flag, action (12.3). -/
def spanFlags (params : List Byte) (flag action : Byte) : Bool :=
  params.length == 3 && byteAt params 1 == flag && byteAt params 2 == action

/-- A parameter string a command frame can carry (11 R180: a length above 32 abandons the frame). -/
def paramsFit (params : List Byte) : Bool := params.length ≤ 32

/-- Well-formed commands. -/
def Instr.wf : Instr → Bool
  | .headerReadComplete bytes => bytes.length == Config.headerBytes
  | .imageReadComplete bytes => bytes.length + Config.headerBytes ≤ Config.maxImage
  | .heldFrameReceived _ _ f => f.holdable
  | .freshnessExpiry span _ => span < Config.maxNodes
  | .restartGuardExpiry origin _ => origin < Config.maxNodes
  | .claimTimeoutExpiry id => id < 4096
  | .waitToRestoreExpiry id => id < 4096
  | .pendingExpiry _ lane => lane < Config.lanes
  | .settleExpiry _ lane => lane < Config.lanes
  | .homingStepExpiry port => port < Config.ports
  | .stepExpiry port => port < Config.ports
  | .homeIndication port _ => port < Config.ports
  | .portFaultOnset port => port < Config.ports
  | .portFaultEnd port => port < Config.ports
  | .circuitRequestPin p => selects p 2 0x01 || (paramsFit p && !spellsRequest p)
  | .circuitRequestForced p => selects p 2 0x02
  | .circuitRequestManual p => selects p 2 0x03
  | .circuitRequestReturn p => selects p 2 0x04
  | .circuitRequestClear p => selects p 2 0x05
  | .setForcedOut p => spanFlags p 0x00 0x01 || (paramsFit p && !spellsFlag p)
  | .clearForcedOut p => spanFlags p 0x00 0x00
  | .setSparesLocked p => spanFlags p 0x01 0x01
  | .clearSparesLocked p => spanFlags p 0x01 0x00
  | .statusQuery p => paramsFit p
  | .spanQuery p => paramsFit p
  | .circuitQuery p => paramsFit p
  | .circuitFind p => paramsFit p
  | .laneQuery p => paramsFit p
  | .portQuery p => paramsFit p
  | .planQuery p => paramsFit p
  | .demote p => paramsFit p
  | .restorePlan p => paramsFit p
  | .freezePlan p => paramsFit p
  | .rehomePort p => paramsFit p
  | .loopTest p => paramsFit p
  | .fetchEvents p => paramsFit p
  | .warmReset p => paramsFit p
  | .powerOnReset => true
  | .pinReset => true
  | .commandReset => true
  | .clockTick => true
  | .startDelayExpiry => true
  | .lightChange _ _ => true
  | .frameLockChange _ _ => true
  | .erroredBlockPulse _ => true
  | .holdOffExpiry _ => true
  | .clearSoakExpiry _ => true
  | .windowBoundaryExpiry _ => true
  | .hailSequenceExpiry _ => true
  | .hailBurstExpiry _ => true
  | .hailAnswerGuardExpiry _ => true
  | .receivedBurstStart _ => true
  | .receivedBurstEnd _ => true
  | .hailGapLimitExpiry _ => true
  | .rateWindowExpiry _ => true
  | .listeningExpiry _ => true
  | .readyingExpiry _ => true
  | .failedHoldExpiry _ => true
  | .silenceExpiry _ => true
  | .keepaliveExpiry _ => true
  | .loopReturnExpiry _ => true
  | .paceFrameReceived _ _ => true
  | .readyFrameReceived _ _ => true
  | .idleFrameReceived _ _ => true
  | .loopTestFrameReceived _ _ _ => true
  | .erroredFrame _ _ => true
  | .frameSendComplete _ => true
  | .refreshExpiry _ => true
  | .spanNotice _ => true
  | .restartNotice _ => true
  | .cclSpanChange => true
  | .cclSegmentMap => true
  | .cclRestart => true
  | .cclSecondRestart => true
  | .dceLockedChange => true
  | .selfClean => true
  | .dceRestart => true
  | .detourClaim _ => true
  | .grant _ => true
  | .refusal _ => true
  | .release _ => true
  | .lsackReady _ => true
  | .busTransferEnd => true
  | .badFrame _ => true
  | .responseSendComplete => true
  | .rstnAsserted => true

end Sys2Proof
end

