-- ==== Sys2Proof/Decode.lean ====
section
/-! DEFINITION. The table's words. No row of spec/opcode_table.json gives bits (98_reader.md: 86 rows, none with fixed
bits or fields), so no word spells a command. The byte formats that the part itself reads and writes (12) are decoded in
Machine/Wire.lean, Machine/Image.lean and Machine/Claims.lean. -/

namespace Sys2Proof

/-- The command that a word spells by the table's bits: none, since no row gives bits. -/
def decodeTableWord (_nbits _w : Nat) : Option Instr := none

end Sys2Proof
end

