-- ==== Sys2Proof/Machine/State.lean ====
section
/-! DEFINITION. The state of one FG7140 as plain data: everything 00 to 12 of spec/ give the part, block by block, and
its value after a power-on reset. INVENTORY.md lists each piece with its rule. -/

namespace Sys2Proof.Machine

/-- A pair of like things, one for each side of the node. -/
structure Both (α : Type) where
  east : α
  west : α
deriving DecidableEq, Repr

/-- A deadline is disarmed, or armed with a clock value (02 R21). -/
abbrev Deadline := Option Nat

/-! ## PLD (01) -/

/-- 01 R3 -/
inductive Mode where
  | start
  | run
  | listen
deriving DecidableEq, Repr

/-- 01 R18 -/
inductive ResetCause where
  | powerOn
  | resetPin
  | command
deriving DecidableEq, Repr

/-- The structural checks of 01 R7, as listen causes. -/
inductive ListenCause where
  | none
  | signature
  | version
  | ringSize
  | nodeNumber
  | spareBase
  | circuitCount
  | length
  | trailer
  | check
deriving DecidableEq, Repr

/-- Restoration classes, in rank order None 0, Opportunistic 1, Preplanned 2 (06 R87). -/
inductive Class where
  | none
  | opportunistic
  | preplanned
deriving DecidableEq, Repr

/-- The node's place in the ring: node number n and ring size N (01 R1, R14). -/
structure Ident where
  node : Nat
  ring : Nat
deriving DecidableEq, Repr

/-- A span record after the clamping of 01 R9. -/
structure SpanPlan where
  length : Nat
  cost : Nat
deriving DecidableEq, Repr

/-- The plan values after clamping, durations in ticks (01 R8). The identity is absent when it is unknown (R14), the
spare base is at its nearest limit, and the span list is empty in LISTEN. -/
structure Plan where
  ident : Option Ident
  spareBase : Nat
  holdOff : Nat
  soak : Nat
  waitToRestore : Nat
  degradeThreshold : Nat
  degradeWindows : Nat
  refresh : Nat
  claimTimeout : Nat
  transitPenalty : Nat
  passCost : Nat
  stepInterval : Nat
  settle : Nat
  topRate : Rate
  spans : List SpanPlan
deriving DecidableEq, Repr

/-- Node number, ring size and spare base as the image gave them, whether or not they passed (11 R183). -/
structure AsRead where
  node : Nat
  ring : Nat
  base : Nat
deriving DecidableEq, Repr

/-- The load in progress (01 R4, R6). -/
inductive Load where
  | none
  | header
  | rest (headerBytes : List Byte)
deriving DecidableEq, Repr

/-- An entry of the demotion list (01 R15). -/
structure Demotion where
  id : Nat
  cls : Class
deriving DecidableEq, Repr

/-- The Plan Loader's state (01 R4). -/
structure Pld where
  mode : Mode
  plan : Option Plan
  asRead : Option AsRead
  demotions : List Demotion
  frozen : Bool
  resetCause : ResetCause
  clamped : Nat
  discarded : Nat
  listenCause : ListenCause
  startDelay : Deadline
  load : Load
deriving DecidableEq, Repr

/-! ## SPM (03) -/

/-- 03 R29: monitor state. -/
inductive MonState where
  | clear
  | holdoff
  | cut
  | soak
deriving DecidableEq, Repr

/-- The declared conditions (03); the own condition is never ForcedOut. -/
inductive Condition where
  | clear
  | degraded
  | cut
  | forcedOut
deriving DecidableEq, Repr

/-- One Span Monitor (03 R29), with its two input indications (R28). -/
structure Monitor where
  light : Bool
  lock : Bool
  state : MonState
  own : Condition
  declared : Option Condition
  holdOff : Deadline
  soak : Deadline
  window : Deadline
  windowCount : Nat
  badRun : Nat
  goodRun : Nat
  degraded : Bool
  forcedOut : Bool
  sparesLocked : Bool
deriving DecidableEq, Repr

/-! ## SLK (04) -/

/-- 04 R45: link state. -/
inductive LinkState where
  | down
  | pacing
  | listening
  | readying
  | up
  | failed
  | loop
deriving DecidableEq, Repr

/-- 12.4: link change cause. -/
inductive LinkCause where
  | none
  | errorRun
  | silence
deriving DecidableEq, Repr

/-- Where a hail sequence being sent stands: burst 1 to 6, or the gap after it (04 R47). -/
structure Hail where
  burst : Nat
  gap : Bool
deriving DecidableEq, Repr

/-- The frame in sending and the rate it began at (04 R50, R59). -/
structure Sending where
  frame : Frame
  rate : Rate
deriving DecidableEq, Repr

/-- The byte receiver of one rate (04 R54): hunting, or the bytes read after a delimiter; and whether a run of stray
bytes is under way. -/
structure Receiver where
  bytes : Option (List Byte)
  stray : Bool
deriving DecidableEq, Repr

/-- The receivers of the three rates; LISTENING receives at all three at once (04 R51). -/
structure Receivers where
  fast : Receiver
  middle : Receiver
  slow : Receiver
deriving DecidableEq, Repr

/-- One Span Link (04 R45). The transmit queue is kept as its two classes, each oldest first. -/
structure Link where
  state : LinkState
  topRate : Option Rate
  rate : Option Rate
  hailCount : Nat
  lastBurstEnd : Option Nat
  readyCount : Nat
  errorRun : Nat
  holding : List Frame
  urgent : List Frame
  routine : List Frame
  sending : Option Sending
  hail : Option Hail
  answerPaces : Nat
  txOverflow : Nat
  checkErrors : Nat
  framingErrors : Nat
  overruns : Nat
  loopSent : Nat
  loopReturned : Nat
  loopCounted : List Nat
  hailSeq : Deadline
  hailBurst : Deadline
  gapLimit : Deadline
  answerGuard : Deadline
  rateWindow : Deadline
  listening : Deadline
  readying : Deadline
  failedHold : Deadline
  silence : Deadline
  keepalive : Deadline
  loopReturn : Deadline
  rx : Receivers
deriving DecidableEq, Repr

/-! ## NRV (05) -/

/-- A present end report (05 R65). -/
structure Report where
  condition : Condition
  linkUp : Bool
  locked : Bool
  seq : Nat
  stale : Bool
  freshness : Deadline
deriving DecidableEq, Repr

/-- 05 R75: derived span status. -/
inductive SpanStatus where
  | usable
  | failed
  | unknown
deriving DecidableEq, Repr

/-- One Ring View entry (05 R65): the remote reports of its two ends, and the derived values. The place of an own report
stays empty here: this node's own two reports are kept once, in `Nrv.own`. -/
structure SpanEntry where
  westEnd : Option Report
  eastEnd : Option Report
  status : SpanStatus
  locked : Bool
  degraded : Bool
deriving DecidableEq, Repr

/-- The Notice Relay and Ring View (05 R66, R84). `guards` holds a deadline and `relay` a record for each origin 0 to
23; the own sequence number of a side is its own report's sequence field (R67). -/
structure Nrv where
  ring : List SpanEntry
  own : Both (Option Report)
  refresh : Both Deadline
  guards : Both (List Deadline)
  restartSent : Both Bool
  segments : List Nat
  relay : Both (List (Option Nat))
deriving DecidableEq, Repr

/-- A change of a derived value that NRV hands on (05 R77). -/
inductive SpanChange where
  | status (span : Nat) (old new : SpanStatus)
  | locked (span : Nat) (set : Bool)
  | degraded (span : Nat) (set : Bool)
deriving DecidableEq, Repr

/-- The hand-offs of one NRV event, waiting at the Circuit Logic to be taken as one event (10 R177, Log 4): the restart of a
node (05 R82), the sending of this node's second Restart Notice (05 R80), the changes of derived values (05 R77), and the
new segment map when the event calls for one (05 R79). -/
structure CclHand where
  restart : Option Nat
  second : Bool
  changes : List SpanChange
  map : Option (List Nat)
deriving DecidableEq, Repr

/-- A hand-off waiting at the Detour Claim Engine (05 R77, R82). -/
inductive DceHand where
  | status (span : Nat) (old new : SpanStatus)
  | locked (span : Nat) (set : Bool)
  | restart (node : Nat)
deriving DecidableEq, Repr

/-! ## CCL (06) -/

/-- 01 R2 -/
inductive Role where
  | head
  | tail
  | transit
deriving DecidableEq, Repr

/-- 12.4: circuit state, head and tail. -/
inductive CircuitState where
  | working
  | queued
  | claiming
  | retuning
  | detoured
  | waitRestore
  | reverting
  | stranded
deriving DecidableEq, Repr

/-- 06 R86: the stored operator request. -/
inductive Request where
  | none
  | pin
  | forced
  | manual
deriving DecidableEq, Repr

/-- The reasons of refusals, strandings and events (12.4). -/
inductive Reason where
  | none
  | laneBusy
  | preempted
  | spanUnusable
  | spanLocked
  | linkDown
  | hopExhausted
  | nodeUnplanned
  | unknownCircuit
  | portFault
  | laneNotSpare
  | timeout
  | ringSplit
  | delayCeiling
  | reachAllowance
  | noFreeLane
  | bundleFailed
  | noRestoration
  | attemptsExhausted
deriving DecidableEq, Repr

/-- The outcome a member of a bundle holds until its bundle's attempt is resolved (06 R102): none yet, a Grant, a Refusal
with its reason and refusing node, the expiry of its claim timeout, or a fault of its port. -/
inductive Attempt where
  | open
  | granted
  | refused (reason : Reason) (node : Byte)
  | timedOut
  | portFaulted
deriving DecidableEq, Repr

/-- One Circuit Table record (06 R86): the plan fields, then the run-time fields. `retuned` and `inEffect` are the two
completions awaited in RETUNING and REVERTING (06 R96, 10 R169). -/
structure Circuit where
  id : Nat
  a : Nat
  z : Nat
  dir : Side
  lane : Nat
  role : Role
  planClass : Class
  cls : Class
  preplanned : Option Nat
  priority : Nat
  bundle : Nat
  revertive : Bool
  ceiling : Nat
  allowance : Nat
  port : Option Nat
  state : CircuitState
  request : Request
  detour : Option Nat
  parked : Option Nat
  tag : Nat
  count : Nat
  excluded : List Nat
  claimTimeout : Deadline
  waitToRestore : Deadline
  headNode : Nat
  reason : Reason
  attempt : Attempt
  retuned : Bool
  inEffect : Bool
deriving DecidableEq, Repr

/-- A claim's key: urgency, class rank, priority, circuit id (06 R92, 08 R129). -/
structure Key where
  urgency : Nat
  rank : Nat
  priority : Nat
  id : Nat
deriving DecidableEq, Repr

/-- An entry of the claim queue: the lowest-id member it stands for, and its key (06 R92). -/
structure QueueEntry where
  lead : Nat
  key : Key
deriving DecidableEq, Repr

/-! ## DCE (08) -/

/-- The fields of a Pending or Held Spare Lane Map entry (08 R124). -/
structure Claim where
  id : Nat
  head : Nat
  tail : Nat
  dir : Side
  tag : Nat
  urgency : Nat
  rank : Nat
  priority : Nat
deriving DecidableEq, Repr

/-- A Spare Lane Map entry (08 R124). -/
inductive LaneEntry where
  | free
  | blocked
  | pending (claim : Claim) (deadline : Nat)
  | held (claim : Claim)
deriving DecidableEq, Repr

/-! ## LSD (09) -/

/-- 09: a lane switch setting. -/
inductive Setting where
  | block
  | pass
  | addDrop (port : Nat)
deriving DecidableEq, Repr

/-- 09 R151: the phases of a cross-connect record. -/
inductive Phase where
  | inEffect
  | waiting
  | settling
deriving DecidableEq, Repr

/-- A cross-connect record (09 R148). A requester is the circuit whose record asked to be told. -/
structure CrossConnect where
  setting : Setting
  pending : Option Setting
  phase : Phase
  settle : Deadline
  requesters : List Nat
deriving DecidableEq, Repr

/-- A control bus message (09 R150). -/
structure BusMessage where
  side : Side
  lane : Nat
  setting : Setting
deriving DecidableEq, Repr

/-- The Lane Switch Driver (09 R148, R150). -/
structure Lsd where
  table : Both (List CrossConnect)
  bus : List BusMessage
  transfer : Option BusMessage
  ackReady : Bool
deriving DecidableEq, Repr

/-! ## TPC (09) -/

/-- 09 R154: port state. -/
inductive PortState where
  | unhomed
  | homing
  | idle
  | stepping
  | fault
deriving DecidableEq, Repr

/-- 09 R154: slot request. -/
inductive SlotRequest where
  | none
  | home
  | step
deriving DecidableEq, Repr

/-- The two step lines of a port (09 R156, R159). -/
inductive Pulse where
  | up
  | down
deriving DecidableEq, Repr

/-- A Port Table record (09 R154), with the port's two input indications. Its slot is the one of `Tpc.slots` it holds. -/
structure Port where
  state : PortState
  present : Option Nat
  target : Option Nat
  request : SlotRequest
  homeCount : Nat
  owner : Option Nat
  homeInd : Bool
  faultInd : Bool
  lastPulse : Option Pulse
deriving DecidableEq, Repr

/-- A stepping slot (09 R155). -/
structure Slot where
  holder : Option Nat
  step : Deadline
deriving DecidableEq, Repr

/-- The Tunable Port Controller (09 R154, R155). -/
structure Tpc where
  ports : List Port
  slots : List Slot
  waiting : List Nat
deriving DecidableEq, Repr

/-! ## MGP (11) -/

/-- 11: command statuses. -/
inductive Status where
  | done
  | accepted
  | busy
  | badFrame
  | invalidCommand
  | notReady
  | badParameter
  | unknownId
  | noMatch
  | notHead
  | notRestorable
  | notDetoured
  | workingUnusable
  | frozen
  | listening
deriving DecidableEq, Repr

/-- An owed response (11 R182): its status and data, and whether it answers Warm Reset (R191). -/
structure Response where
  status : Status
  data : List Byte
  warmReset : Bool
deriving DecidableEq, Repr

/-- What an event reports (11 section 11.4). -/
inductive EventBody where
  | planLoaded (mode : Mode) (clamped discarded : Nat) (cause : ListenCause)
  | spanDeclared (side : Side) (new previous : Condition) (state : MonState)
  | linkState (side : Side) (new previous : LinkState) (rate : Rate) (cause : LinkCause)
  | restartHeard (origin : Nat) (side : Side)
  | circuitState (id : Nat) (new previous : CircuitState) (reason : Reason)
  | claimRefused (id : Nat) (reason : Reason) (node : Byte)
  | manualWithdrawn (id : Nat)
  | portHomed (port : Nat)
  | portFault (port : Nat) (left : PortState)
  | loopResult (side : Side) (returned : Nat)
  | overflow (lost : Nat)
deriving DecidableEq, Repr

/-- An entry of the Event Report Queue, with its clock stamp (02 R20). -/
structure Event where
  stamp : Nat
  body : EventBody
deriving DecidableEq, Repr

/-- The Management Port (11 R180, R182, R192). `rx` is the frame being assembled, none while hunting. -/
structure Mgp where
  rx : Option (List Byte)
  owed : List Response
  resetDue : Bool
  events : List Event
deriving DecidableEq, Repr

/-- A report handed between blocks inside one step and not yet taken (Log 5): from the Tunable Port Controller to a
port's owner, a homing that its indication ends at once (09 R156), or from the Lane Switch Driver to a circuit whose undo
Block was dropped (09 R149). -/
inductive Work where
  | retuned (port lane : Nat)
  | faulted (port : Nat)
  | homed (port : Nat)
  | faultAtStart (port : Nat)
  | homeAtStart (port : Nat)
  | undoDropped (side : Side) (lane id : Nat)
deriving DecidableEq, Repr

/-- The state of the part. `pending` is the queue of commands waiting to be taken, first in, first out. `rstnLow`: RSTN is
held low. `powerOnDue`: the supply has become stable under a low RSTN, and the power-on reset is taken at its release (01
R4). -/
structure State where
  pending : List Instr
  rstnLow : Bool
  powerOnDue : Bool
  clock : Nat
  pld : Pld
  mon : Both Monitor
  link : Both Link
  nrv : Nrv
  toCcl : List CclHand
  toDce : List DceHand
  circuits : List Circuit
  queue : List QueueEntry
  lanes : Both (List LaneEntry)
  lsd : Lsd
  tpc : Tpc
  mgp : Mgp
  work : List Work
deriving DecidableEq, Repr

/-- The reasons a step could stop with a fault: none. The spec gives every command an effect in every state (INVENTORY.md,
Faults), so no command raises one. Safe: a model that never stops hides nothing behind a stop. -/
inductive Fault where
deriving DecidableEq, Repr

/-- The reasons a command could be refused. -/
inductive Refusal where
  /-- Raised by an arm of `exec` whose command has no meaning yet; no arm raises it. Safe: the model would stop where
  the part goes on. -/
  | notModelled (mnemonic : String)
deriving DecidableEq, Repr

/-! ## Reset values -/

/-- 03 R29: every reset gives a monitor these values; its two input indications are pins and keep their levels. -/
def Monitor.reset (light lock : Bool) : Monitor where
  light := light
  lock := lock
  state := .clear
  own := .clear
  declared := none
  holdOff := none
  soak := none
  window := none
  windowCount := 0
  badRun := 0
  goodRun := 0
  degraded := false
  forcedOut := false
  sparesLocked := false

/-- A byte receiver that hunts (04 R54). -/
def Receiver.hunting : Receiver := ⟨none, false⟩

/-- The receivers of a link that has just entered a state: nothing assembled (04 R54, incomplete). -/
def Receivers.hunting : Receivers := ⟨.hunting, .hunting, .hunting⟩

/-- 04 R45: every reset gives a link these values. -/
def Link.reset : Link where
  state := .down
  topRate := none
  rate := none
  hailCount := 0
  lastBurstEnd := none
  readyCount := 0
  errorRun := 0
  holding := []
  urgent := []
  routine := []
  sending := none
  hail := none
  answerPaces := 0
  txOverflow := 0
  checkErrors := 0
  framingErrors := 0
  overruns := 0
  loopSent := 0
  loopReturned := 0
  loopCounted := []
  hailSeq := none
  hailBurst := none
  gapLimit := none
  answerGuard := none
  rateWindow := none
  listening := none
  readying := none
  failedHold := none
  silence := none
  keepalive := none
  loopReturn := none
  rx := .hunting

/-- 05 R66, R84: every reset gives NRV these values. The segment map of an absent ring is empty: every node reads
segment 0. -/
def Nrv.reset : Nrv where
  ring := []
  own := ⟨none, none⟩
  refresh := ⟨none, none⟩
  guards := ⟨List.replicate Config.maxNodes none, List.replicate Config.maxNodes none⟩
  restartSent := ⟨false, false⟩
  segments := []
  relay := ⟨List.replicate Config.maxNodes none, List.replicate Config.maxNodes none⟩

/-- 09 R148: a cross-connect record after any reset. -/
def CrossConnect.reset : CrossConnect where
  setting := .block
  pending := none
  phase := .inEffect
  settle := none
  requesters := []

/-- 09 R148: every reset; LSACK is a pin and keeps its level. -/
def Lsd.reset (ackReady : Bool) : Lsd where
  table := ⟨List.replicate Config.lanes .reset, List.replicate Config.lanes .reset⟩
  bus := []
  transfer := none
  ackReady := ackReady

/-- 09 R154: a port after any reset; its two indications are pins and keep their levels. -/
def Port.reset (homeInd faultInd : Bool) : Port where
  state := .unhomed
  present := none
  target := none
  request := .none
  homeCount := 0
  owner := none
  homeInd := homeInd
  faultInd := faultInd
  lastPulse := none

/-- 09 R154: a free slot, its step deadline disarmed. -/
def Slot.free : Slot := ⟨none, none⟩

/-- 11 R180, R182, R192: the port after any reset. -/
def Mgp.reset : Mgp where
  rx := none
  owed := []
  resetDue := false
  events := []

/-- 01 R4: PLD after a power-on reset. -/
def Pld.powerOn : Pld where
  mode := .start
  plan := none
  asRead := none
  demotions := []
  frozen := false
  resetCause := .powerOn
  clamped := 0
  discarded := 0
  listenCause := .none
  startDelay := some Config.startDelay
  load := .none

/-- The machine right after a power-on reset, with RSTN high, every input indication low (Log 1) and no command
waiting. -/
def State.reset : State where
  pending := []
  rstnLow := false
  powerOnDue := false
  clock := 0
  pld := .powerOn
  mon := ⟨.reset false false, .reset false false⟩
  link := ⟨.reset, .reset⟩
  nrv := .reset
  toCcl := []
  toDce := []
  circuits := []
  queue := []
  lanes := ⟨[], []⟩
  lsd := .reset false
  tpc := ⟨List.replicate Config.ports (.reset false false), List.replicate Config.slots .free, []⟩
  mgp := .reset
  work := []

end Sys2Proof.Machine
end

