-- ==== Sys2Proof/Machine/Ops.lean ====
section
/-! DEFINITION. The named operations over State that every block shares: reading and writing one side, one record or one
list place; arming and judging deadlines (02 R21, R22); posting an event (11 R192); the plan values in use. -/

namespace Sys2Proof.Machine

/-! ## Sides, lists -/

/-- The member of a pair that a side names. -/
def Both.get {α : Type} (b : Both α) : Side → α
  | .east => b.east
  | .west => b.west

/-- The pair with one side's member replaced. -/
def Both.set {α : Type} (b : Both α) (side : Side) (v : α) : Both α :=
  match side with
  | .east => { b with east := v }
  | .west => { b with west := v }

/-- The list with its entry `i`, if it has one, changed by `f`. -/
def modifyAt {α : Type} (i : Nat) (f : α → α) : List α → List α
  | [] => []
  | a :: rest =>
    match i with
    | 0 => f a :: rest
    | j + 1 => a :: modifyAt j f rest

/-- A counter of one more, held at its limit. -/
def countUp (limit n : Nat) : Nat := min (n + 1) limit

/-! ## Writing one part of the state -/

namespace State

def setPld (p : Pld) (s : State) : State := { s with pld := p }
def setMon (side : Side) (m : Monitor) (s : State) : State := { s with mon := s.mon.set side m }
def setLink (side : Side) (l : Link) (s : State) : State := { s with link := s.link.set side l }
def setNrv (n : Nrv) (s : State) : State := { s with nrv := n }
def setToCcl (h : List CclHand) (s : State) : State := { s with toCcl := h }
def setToDce (h : List DceHand) (s : State) : State := { s with toDce := h }
def setCircuits (cs : List Circuit) (s : State) : State := { s with circuits := cs }
def setQueue (q : List QueueEntry) (s : State) : State := { s with queue := q }
def setLanes (side : Side) (m : List LaneEntry) (s : State) : State := { s with lanes := s.lanes.set side m }
def setLsd (l : Lsd) (s : State) : State := { s with lsd := l }
def setTpc (t : Tpc) (s : State) : State := { s with tpc := t }
def setMgp (m : Mgp) (s : State) : State := { s with mgp := m }
def setWork (w : List Work) (s : State) : State := { s with work := w }

/-- The link of a side. -/
def linkAt (s : State) (side : Side) : Link := s.link.get side

/-- The monitor of a side. -/
def monAt (s : State) (side : Side) : Monitor := s.mon.get side

end State

/-- A work item joins the reports still to be taken in this step (Log 5). -/
def addWork (w : Work) (s : State) : State := s.setWork (s.work ++ [w])

/-! ## Clock and deadlines (02) -/

/-- The deadline armed with a duration: the clock plus the duration, at most the largest count (02 R21). -/
def arm (s : State) (duration : Nat) : Deadline := some (min (s.clock + duration) Config.maxTick)

/-- An armed deadline is due while the clock is at or above its value; a disarmed one never is (02 R22). -/
def due (s : State) (d : Deadline) : Bool :=
  match d with
  | none => false
  | some value => value ≤ s.clock

/-- A guard's guarded behaviour applies until its expiry is taken: an event that comes together with the expiry, and is taken
first, is handled as guarded (02 R27, Log 37). -/
def guarding (d : Deadline) : Bool := d.isSome

/-- The clock count one tick on; the largest value stays (02 R19). -/
def nextTick (clock : Nat) : Nat := min (clock + 1) Config.maxTick

/-- The next multiple of 10,000 ticks above the clock (02 R26, 03 R30, R36); the largest count where no multiple above the
clock fits in 48 bits (Log 39). -/
def nextBoundary (s : State) : Deadline :=
  some (min ((s.clock / Config.degradeWindow + 1) * Config.degradeWindow) Config.maxTick)

/-! ## The plan in use (01) -/

/-- No plan values: what a block that has none reads. The node is in START then, and no block acts on them (01 R3). -/
def Plan.absent : Plan where
  ident := none
  spareBase := 24
  holdOff := 0
  soak := 0
  waitToRestore := 0
  degradeThreshold := 0
  degradeWindows := 0
  refresh := 0
  claimTimeout := 0
  transitPenalty := 0
  passCost := 0
  stepInterval := 0
  settle := 0
  topRate := .slow
  spans := []

namespace State

/-- The plan values in use. -/
def plan (s : State) : Plan := s.pld.plan.getD .absent

/-- The node's place in the ring, when it is known (01 R14). -/
def ident (s : State) : Option Ident := s.plan.ident

/-- The part is out of START and not held in reset: the blocks act (01 R3, R4). -/
def running (s : State) : Bool := !s.rstnLow && s.pld.mode != .start

/-- The node is in RUN. -/
def inRun (s : State) : Bool := !s.rstnLow && s.pld.mode == .run

end State

/-- The span a side of node n faces: n to the East, n − 1 to the West (01 R1). -/
def Ident.span (i : Ident) : Side → Nat
  | .east => i.node
  | .west => (i.node + i.ring - 1) % i.ring

/-- The next node in a direction. -/
def Ident.next (ring node : Nat) : Side → Nat
  | .east => (node + 1) % ring
  | .west => (node + ring - 1) % ring

/-- This node's number, or the unknown-node code FFh (12 R196). -/
def State.nodeCode (s : State) : Byte :=
  match s.ident with
  | some i => byte i.node
  | none => 0xFF

/-! ## Events (11 section 11.4) -/

/-- The overflow marker's count, when an event is the marker. -/
def EventBody.lost : EventBody → Option Nat
  | .overflow n => some n
  | _ => none

/-- 11 R192: what posting an event does to the queue. A marker is the newest entry whenever there is one. -/
def joinEvents (stamp : Nat) (body : EventBody) (events : List Event) : List Event :=
  match events.getLast? with
  | none => [⟨stamp, body⟩]
  | some newest =>
    match newest.body.lost with
    | some n => events.dropLast ++ [⟨newest.stamp, .overflow (countUp 65535 n)⟩]
    | none =>
      if events.length < Config.eventCapacity - 1 then events ++ [⟨stamp, body⟩]
      else events ++ [⟨stamp, .overflow 1⟩]

/-- A block posts an event, stamped with the clock (02 R20, 11 R192). -/
def post (body : EventBody) (s : State) : State :=
  s.setMgp { s.mgp with events := joinEvents s.clock body s.mgp.events }

/-- ATTN is asserted while the queue holds an entry (11 R194). -/
def State.attn (s : State) : Bool := !s.mgp.events.isEmpty

/-! ## Signalling frames offered to a link (04 section 4.6) -/

/-- The number of frames in the transmit queue. -/
def Link.depth (l : Link) : Nat := l.urgent.length + l.routine.length

/-- 04 R60: a frame offered to the transmit queue, by class. -/
def Link.enqueue (urgent : Bool) (f : Frame) (l : Link) : Link :=
  if l.depth < Config.txCapacity then
    if urgent then { l with urgent := l.urgent ++ [f] } else { l with routine := l.routine ++ [f] }
  else if urgent then
    if l.routine.isEmpty then { l with txOverflow := countUp 255 l.txOverflow }
    else { l with routine := l.routine.dropLast, urgent := l.urgent ++ [f] }
  else l

/-- A frame goes into sending at the current rate. -/
def Link.send (f : Frame) (l : Link) : Link :=
  { l with sending := some ⟨f, l.rate.getD .slow⟩ }

/-- What a link whose line is free sends next, by its state: Pace frames and, at the first of a rate, the rate window
(04 R50); the answering Pace frames and then Ready frames (R51, R52); the queue, urgent before routine (R59); the next
Loop Test frame of sixteen (R63). -/
def Link.sendNext (s : State) (l : Link) : Link :=
  match l.state with
  | .pacing =>
    ({ l with rateWindow := if l.rateWindow.isNone then arm s Config.rateWindow else l.rateWindow }).send ⟨.pace, []⟩
  | .readying =>
    if l.answerPaces = 0 then l.send ⟨.ready, []⟩
    else ({ l with answerPaces := l.answerPaces - 1 }).send ⟨.pace, []⟩
  | .up =>
    match l.urgent, l.routine with
    | f :: rest, _ => ({ l with urgent := rest }).send f
    | [], f :: rest => ({ l with routine := rest }).send f
    | [], [] => l
  | .loop => if l.loopSent < Config.loopFrames then l.send ⟨.loopTest, [byte (l.loopSent + 1)]⟩ else l
  | .down => l
  | .listening => l
  | .failed => l

/-- The link begins the next frame when none is in sending (04 R52, R59); the pacer's first Pace frame waits for the end of a
hail sequence that runs on (R49), and no other frame does (Log 8). -/
def Link.startSending (s : State) (l : Link) : Link :=
  if l.sending.isSome || (l.state = .pacing && l.hail.isSome) then l else l.sendNext s

/-- A link in UP takes an offered frame and sends it if its line is free (04 R59, R60). -/
def offerUp (side : Side) (urgent : Bool) (f : Frame) (s : State) : State :=
  s.setLink side (((s.linkAt side).enqueue urgent f).startSending s)

/-- NRV offers a notice to a link; a link not in UP discards it (04 R60, R61). -/
def offerNotice (side : Side) (urgent : Bool) (f : Frame) (s : State) : State :=
  if (s.linkAt side).state = .up then offerUp side urgent f s else s

end Sys2Proof.Machine
end

