-- ==== Sys2Proof/Machine/Flags.lean ====
section
/-! DEFINITION. The derived values of the Ring View: span status, Locked, Degraded (05 R75, R76), the segment map (R78),
and the sequence comparison of notices (R71). -/

namespace Sys2Proof.Machine

/-- A report that is present and not stale is fresh (05 R65). -/
def Report.fresh (r : Report) : Bool := !r.stale

/-- A fresh report of Cut or ForcedOut (05 R75). -/
def Report.failing (r : Report) : Bool := r.fresh && (r.condition = .cut || r.condition = .forcedOut)

/-- A fresh report of Clear or Degraded with the link Up (05 R75). -/
def Report.vouching (r : Report) : Bool := r.fresh && (r.condition = .clear || r.condition = .degraded) && r.linkUp

/-- Some end's report, absent ends apart, satisfies `p`. -/
def anyEnd (p : Report → Bool) (w e : Option Report) : Bool := w.any p || e.any p

/-- 05 R75: the derived status of a span from its two end reports. -/
def deriveStatus (w e : Option Report) : SpanStatus :=
  if anyEnd Report.failing w e then .failed
  else if w.any Report.vouching && e.any Report.vouching then .usable
  else .unknown

/-- 05 R76: a fresh report carries Spares Locked. -/
def deriveLocked (w e : Option Report) : Bool := anyEnd (fun r => r.fresh && r.locked) w e

/-- 05 R76: a fresh report has condition Degraded. -/
def deriveDegraded (w e : Option Report) : Bool := anyEnd (fun r => r.fresh && r.condition = .degraded) w e

/-- 05 R71: sequence `s` is newer than `t`. -/
def newer (s t : Nat) : Bool :=
  let ahead := (s + 256 - t) % 256
  1 ≤ ahead && ahead ≤ 127

/-- The numbers of the Failed spans, ascending. -/
def failedSpans (ring : List SpanEntry) : List Nat :=
  (List.range ring.length).filter fun i => ring[i]?.any fun e => e.status = .failed

/-- 05 R78: the segment number of each node. Going East from node 0 each Failed span crossed begins the next segment; the
nodes after the last one are in segment 0 again. With fewer than two Failed spans every node is in segment 0. -/
def segmentMap (ring : List SpanEntry) : List Nat :=
  let failed := failedSpans ring
  if failed.length < 2 then List.replicate ring.length 0
  else (List.range ring.length).map fun node => (failed.filter (· < node)).length % failed.length

/-- A span's two end reports, the West end first, with this node's own reports in their places (05 R65). -/
def spanReports (s : State) (span : Nat) : Option Report × Option Report :=
  let entry := s.nrv.ring[span]?
  let west := entry.bind (·.westEnd)
  let east := entry.bind (·.eastEnd)
  match s.ident with
  | none => (west, east)
  | some i =>
    (if span = i.span .east then s.nrv.own.east else west, if span = i.span .west then s.nrv.own.west else east)

/-- A span's derived status as the Ring View holds it; a span that has no entry is Unknown. -/
def statusOf (s : State) (span : Nat) : SpanStatus :=
  match s.nrv.ring[span]? with
  | some e => e.status
  | none => .unknown

/-- A span's Locked flag as the Ring View holds it. -/
def lockedOf (s : State) (span : Nat) : Bool := s.nrv.ring[span]?.any (·.locked)

/-- A span's Degraded flag as the Ring View holds it. -/
def degradedOf (s : State) (span : Nat) : Bool := s.nrv.ring[span]?.any (·.degraded)

/-- A node's segment number (05 R78). -/
def segmentOf (s : State) (node : Nat) : Nat := s.nrv.segments.getD node 0

end Sys2Proof.Machine
end

