-- ==== Sys2Proof/Machine/Lsd.lean ====
section
/-! DEFINITION. The Lane Switch Driver (09 section 9.1): writes and undos, the bus list and transfers, settling, the load's
settings, and the commands that touch the driver alone. -/

namespace Sys2Proof.Machine

/-- A record's latest setting (09 R148). -/
def CrossConnect.latest (r : CrossConnect) : Setting := r.pending.getD r.setting

/-- The record of a side and lane. -/
def Lsd.record (l : Lsd) (side : Side) (lane : Nat) : CrossConnect := ((l.table.get side)[lane]?).getD .reset

def Lsd.setRecord (side : Side) (lane : Nat) (r : CrossConnect) (l : Lsd) : Lsd :=
  { l with table := l.table.set side (modifyAt lane (fun _ => r) (l.table.get side)) }

/-- A message of this record. -/
def BusMessage.of (side : Side) (lane : Nat) (m : BusMessage) : Bool := m.side = side && m.lane = lane

/-- 09 R150: the oldest message goes into transfer when nothing is in transfer and LSACK shows ready. -/
def Lsd.start (l : Lsd) : Lsd :=
  if l.transfer.isNone && l.ackReady then
    match l.bus with
    | [] => l
    | m :: rest => { l with bus := rest, transfer := some m }
  else l

/-- 09 R151: the record that a write leaves: WAITING for the new setting. A different setting empties the requester list
before the new requester joins. -/
def CrossConnect.written (setting : Setting) (who : Option Nat) (r : CrossConnect) : CrossConnect :=
  { r with
    pending := some setting, phase := .waiting, settle := none,
    requesters := (if r.pending = some setting then r.requesters else []) ++ who.toList }

/-- 09 R151: a write. A message of the record on the bus list is rewritten in its place, else the message joins as the
newest. `who` asks to be told. -/
def Lsd.write (side : Side) (lane : Nat) (setting : Setting) (who : Option Nat) (l : Lsd) : Lsd :=
  let message : BusMessage := ⟨side, lane, setting⟩
  let bus :=
    if l.bus.any (BusMessage.of side lane) then l.bus.map fun m => if m.of side lane then message else m
    else l.bus ++ [message]
  ({ l.setRecord side lane ((l.record side lane).written setting who) with bus := bus }).start

/-- 09 R149: an undo Block is written when the record's latest setting is the one it removes, and dropped otherwise. `who`
asks to be told. -/
def Lsd.undo (side : Side) (lane : Nat) (removes : Setting) (who : Option Nat) (l : Lsd) : Lsd :=
  if (l.record side lane).latest = removes then l.write side lane .block who else l

/-- 09 R151: the end of a transfer, with the settle deadline its record takes. -/
def Lsd.transferEnd (settle : Deadline) (l : Lsd) : Lsd :=
  match l.transfer with
  | none => l
  | some m =>
    let freed := { l with transfer := none }
    let r := l.record m.side m.lane
    (if r.pending = some m.setting then
      { freed.setRecord m.side m.lane { r with phase := .settling, settle := settle } with
        bus := l.bus.filter fun other => !other.of m.side m.lane }
    else freed).start

/-- 09 R152: the record whose settle deadline has expired. -/
def CrossConnect.settled (r : CrossConnect) : CrossConnect := ⟨r.latest, none, .inEffect, none, []⟩

/-- A write request of a block. -/
def laneWrite (side : Side) (lane : Nat) (setting : Setting) (who : Option Nat) (s : State) : State :=
  s.setLsd (s.lsd.write side lane setting who)

/-- An undo Block of a block. A requester that asked to be told of it is told at once when it is dropped (09 R149); no rule
has a block ask that of an undo, so every caller passes none. -/
def laneUndo (side : Side) (lane : Nat) (removes : Setting) (who : Option Nat) (s : State) : State :=
  let undone := s.setLsd (s.lsd.undo side lane removes who)
  match who with
  | none => undone
  | some id => if (s.lsd.record side lane).latest = removes then undone else addWork (.undoDropped side lane id) undone

/-- Pass on a lane: two writes, East first (09 R149). -/
def lanePass (lane : Nat) (s : State) : State := laneWrite .west lane .pass none (laneWrite .east lane .pass none s)

/-- The load's writes: one for each record, East lanes 0 to 47 and then West (09 R153). -/
def laneLoad (setting : Side → Nat → Setting) (s : State) : State :=
  let writeSide (side : Side) (l : Lsd) : Lsd :=
    (List.range Config.lanes).foldl (fun l lane => l.write side lane (setting side lane) none) l
  s.setLsd (writeSide .west (writeSide .east s.lsd))

/-! ## Commands -/

/-- LSACK_READY (09 R150): LSACK as it now shows; ready lets a waiting message go. -/
def execLsackReady (ready : Bool) (s : State) : Host.Outcome State Fault Refusal :=
  .next <|
    let seen := { s.lsd with ackReady := ready }
    s.setLsd (if s.running then seen.start else seen)

/-- BUS_TRANSFER_END (09 R151) -/
def execBusTransferEnd (s : State) : Host.Outcome State Fault Refusal :=
  .next (if s.running then s.setLsd (s.lsd.transferEnd (arm s s.plan.settle)) else s)

end Sys2Proof.Machine
end

