-- ==== Sys2Proof/Machine/Lanes.lean ====
section
/-! DEFINITION. The lower half of the Detour Claim Engine (08): arcs, the Spare Lane Map and its entries, keys, the
claim-family frames and their offering to a link, and the withdrawal that the Circuit Logic hands down (R133). -/

namespace Sys2Proof.Machine

/-! ## Arcs (00 Arcs, 07 R110) -/

/-- The spans of the arc from node `a` to node `z` in a direction, in order of travel. -/
def arcSpans (ring a z : Nat) : Side → List Nat
  | .east => (List.range ((z + ring - a) % ring)).map fun k => (a + k) % ring
  | .west => (List.range ((a + ring - z) % ring)).map fun k => (a + ring - 1 - k) % ring

/-- The hop count of an arc. -/
def arcHops (ring a z : Nat) (dir : Side) : Nat := (arcSpans ring a z dir).length

/-- The nodes of an arc other than its ends, in order of travel. -/
def arcInner (ring a z : Nat) (dir : Side) : List Nat :=
  (List.range (arcHops ring a z dir - 1)).map fun k =>
    match dir with
    | .east => (a + (k + 1)) % ring
    | .west => (a + ring - (k + 1)) % ring

/-- This node's number; a node without an identity has no arcs. -/
def State.node (s : State) : Nat := (s.ident.map (·.node)).getD 0

/-- The ring size. -/
def State.ring (s : State) : Nat := (s.ident.map (·.ring)).getD 0

/-- The span a side of this node faces. -/
def State.sideSpan (s : State) (side : Side) : Nat :=
  match s.ident with
  | some i => i.span side
  | none => 0

/-- A span of the arc is Failed in the Ring View. -/
def arcFailed (s : State) (spans : List Nat) : Bool := spans.any fun i => statusOf s i = .failed

/-- Every span of the arc is Usable in the Ring View. -/
def arcUsable (s : State) (spans : List Nat) : Bool := spans.all fun i => statusOf s i = .usable

/-! ## Keys (06 R92, 08 R129) -/

/-- 06 R87: the rank of a class. -/
def Class.rank : Class → Nat
  | .none => 0
  | .opportunistic => 1
  | .preplanned => 2

/-- Urgency first, then class rank, then priority, and last the id, the lower ranking higher. -/
def Key.above (y x : Key) : Bool :=
  if y.urgency ≠ x.urgency then x.urgency < y.urgency
  else if y.rank ≠ x.rank then x.rank < y.rank
  else if y.priority ≠ x.priority then x.priority < y.priority
  else y.id < x.id

/-- The key of a claim. -/
def Claim.key (c : Claim) : Key := ⟨c.urgency, c.rank, c.priority, c.id⟩

/-! ## The Spare Lane Map (08 R124) -/

/-- The lane lies in B to 47. -/
def isSpare (s : State) (lane : Nat) : Bool := s.plan.spareBase ≤ lane && lane < Config.lanes

/-- The entry of a side and spare lane; the map holds lanes B to 47 alone. -/
def laneEntry (s : State) (side : Side) (lane : Nat) : Option LaneEntry :=
  if isSpare s lane then (s.lanes.get side)[lane - s.plan.spareBase]? else none

/-- An entry is written; a lane outside the map has none. -/
def setLane (side : Side) (lane : Nat) (e : LaneEntry) (s : State) : State :=
  if isSpare s lane then s.setLanes side (modifyAt (lane - s.plan.spareBase) (fun _ => e) (s.lanes.get side)) else s

/-- The claim that an entry is Pending or Held for. -/
def LaneEntry.claim : LaneEntry → Option Claim
  | .free => none
  | .blocked => none
  | .pending c _ => some c
  | .held c => some c

def LaneEntry.isHeld : LaneEntry → Bool
  | .held _ => true
  | _ => false

/-- The claim of an entry, if it has one. -/
def claimAt (s : State) (side : Side) (lane : Nat) : Option Claim := (laneEntry s side lane).bind (·.claim)

/-- 08 R127: a claim of the attempt that a circuit id, a head and a tag name. -/
def Claim.matches (id head tag : Nat) (c : Claim) : Bool := c.id = id && c.head = head && c.tag = tag

/-- The entry matches an attempt. -/
def entryMatches (s : State) (side : Side) (lane id head tag : Nat) : Bool :=
  (claimAt s side lane).any fun c => c.matches id head tag

/-- 08 R129, R130: a claim with this key, id and head may take the entry. -/
def LaneEntry.takeable (key : Key) (head : Nat) : LaneEntry → Bool
  | .free => true
  | .blocked => false
  | .pending x _ => (x.id = key.id && x.head = head) || key.above x.key
  | .held x => (x.id = key.id && x.head = head) || (key.above x.key && x.urgency < 3)

/-- 08 R124: an entry is freed: Blocked when its side's span is Locked in the Ring View, Free otherwise. -/
def freeLane (side : Side) (lane : Nat) (s : State) : State :=
  setLane side lane (if lockedOf s (s.sideSpan side) then .blocked else .free) s

/-- This node is a transit of a claim. -/
def isTransit (s : State) (c : Claim) : Bool := c.head ≠ s.node && c.tail ≠ s.node

/-- 08 R138: an entry of an attempt is freed; one that was Held at a transit has its Pass undone. -/
def freeEntry (side : Side) (lane : Nat) (s : State) : State :=
  match laneEntry s side lane with
  | some (.held c) =>
    if isTransit s c then laneUndo side lane .pass none (freeLane side lane s) else freeLane side lane s
  | some (.pending _ _) => freeLane side lane s
  | _ => s

/-- Every entry of this node that matches an attempt is freed, East first. -/
def freeAttempt (lane id head tag : Nat) (s : State) : State :=
  let east := if entryMatches s .east lane id head tag then freeEntry .east lane s else s
  if entryMatches east .west lane id head tag then freeEntry .west lane east else east

/-! ## Claim-family frames (12.2, 08 R127) -/

/-- 12.4: the codes of the reasons. -/
def Reason.code : Reason → Nat
  | .none => 0x00
  | .laneBusy => 0x01
  | .preempted => 0x02
  | .spanUnusable => 0x03
  | .spanLocked => 0x04
  | .linkDown => 0x05
  | .hopExhausted => 0x06
  | .nodeUnplanned => 0x07
  | .unknownCircuit => 0x08
  | .portFault => 0x09
  | .laneNotSpare => 0x0A
  | .timeout => 0x10
  | .ringSplit => 0x11
  | .delayCeiling => 0x12
  | .reachAllowance => 0x13
  | .noFreeLane => 0x14
  | .bundleFailed => 0x15
  | .noRestoration => 0x16
  | .attemptsExhausted => 0x17

/-- The reasons that may travel in a Refusal, by code (12.4). -/
def Reason.ofCode : Nat → Option Reason
  | 0x01 => some .laneBusy
  | 0x02 => some .preempted
  | 0x03 => some .spanUnusable
  | 0x04 => some .spanLocked
  | 0x05 => some .linkDown
  | 0x06 => some .hopExhausted
  | 0x07 => some .nodeUnplanned
  | 0x08 => some .unknownCircuit
  | 0x09 => some .portFault
  | 0x0A => some .laneNotSpare
  | _ => Option.none

/-- The identifiers that every claim-family frame carries (08 R127). -/
structure Attempted where
  id : Nat
  head : Nat
  tail : Nat
  dir : Side
  lane : Nat
  tag : Nat
deriving DecidableEq, Repr

/-- The attempt of a claim on a lane. -/
def Claim.attempted (lane : Nat) (c : Claim) : Attempted := ⟨c.id, c.head, c.tail, c.dir, lane, c.tag⟩

/-- The first seven bytes of every claim-family body (12.2); the id's high 4 bits are 0 (R196). -/
def Attempted.bytes (m : Attempted) : List Byte :=
  bytes2 m.id ++ [byte m.head, byte m.tail, byte m.dir.code, byte m.lane, byte m.tag]

/-- 12.2: a Grant or a Release. -/
def plainFrame (kind : FrameKind) (m : Attempted) (hops : Nat) : Frame := ⟨kind, m.bytes ++ [byte hops]⟩

/-- 12.2: a Detour Claim. -/
def claimFrame (m : Attempted) (key : Key) (hops : Nat) : Frame :=
  ⟨.detourClaim, m.bytes ++ [byte key.urgency, byte key.rank, byte key.priority, byte hops]⟩

/-- 12.2: a Refusal. -/
def refusalFrame (m : Attempted) (reason : Reason) (node : Byte) (hops : Nat) : Frame :=
  ⟨.refusal, m.bytes ++ [byte reason.code, node, byte hops]⟩

/-- 12 R197: the judgement of the fields that every claim-family frame shares. -/
def decodeAttempted (s : State) (body : List Byte) : Option Attempted :=
  let head := field1 body 2
  let tail := field1 body 3
  let limit := match s.ident with
    | some i => i.ring
    | none => Config.maxNodes
  match Side.ofCode (field1 body 4) with
  | some dir =>
    if head < limit && tail < limit && head ≠ tail && field1 body 6 ≤ 7 then
      some ⟨field2 body 0 % 4096, head, tail, dir, field1 body 5, field1 body 6⟩
    else none
  | none => none

/-- 12 R197: the key a Detour Claim carries. -/
def decodeKey (m : Attempted) (body : List Byte) : Option Key :=
  if field1 body 7 ≤ 3 && field1 body 8 ≤ 2 && field1 body 9 ≤ 7 then
    some ⟨field1 body 7, field1 body 8, field1 body 9, m.id⟩
  else none

/-- 08 R127: the hop budget of a frame that starts here towards the tail; 23 without an identity. -/
def hopsToTail (s : State) (m : Attempted) : Nat :=
  match s.ident with
  | none => Config.maxHops
  | some i =>
    match m.dir with
    | .east => (m.tail + i.ring - i.node) % i.ring
    | .west => (i.node + i.ring - m.tail) % i.ring

/-- 08 R127: the hop budget of a frame that starts here towards the head. -/
def hopsToHead (s : State) (m : Attempted) : Nat :=
  match s.ident with
  | none => Config.maxHops
  | some i =>
    match m.dir with
    | .east => (i.node + i.ring - m.head) % i.ring
    | .west => (m.head + i.ring - i.node) % i.ring

/-- 04 R60, R61: a claim-family frame is offered to a link, always urgent. A link not in UP hands it back: none. -/
def offerClaim (side : Side) (f : Frame) (s : State) : Option State :=
  if (s.linkAt side).state = .up then some (offerUp side true f s) else none

/-- 08 R143: a Refusal or Release that is handed back is discarded. -/
def offerOrDrop (side : Side) (f : Frame) (s : State) : State := (offerClaim side f s).getD s

/-- A Release of an attempt starts here, towards the tail (08 R127). -/
def sendRelease (m : Attempted) (s : State) : State :=
  offerOrDrop m.dir (plainFrame .release m (hopsToTail s m)) s

/-- A Refusal of an attempt starts here, on the given link, with this node as refusing node (08 R136). -/
def sendRefusal (side : Side) (m : Attempted) (reason : Reason) (s : State) : State :=
  offerOrDrop side (refusalFrame m reason s.nodeCode (hopsToHead s m)) s

/-- 08 R133: a withdrawal. The head's matching entry is freed, with nothing written to the lane switch, and a Release
of the attempt is offered to the detour-side link, whether or not an entry matched. -/
def withdraw (m : Attempted) (s : State) : State :=
  sendRelease m (if entryMatches s m.dir m.lane m.id m.head m.tag then freeLane m.dir m.lane s else s)

end Sys2Proof.Machine
end

