-- ==== Sys2Proof/Machine/Image.lean ====
section
/-! DEFINITION. The plan image (01 R6 to R11, 12.1): the structural checks, the clamped plan values, the circuit records
and their corrections. -/

namespace Sys2Proof.Machine

/-! ## Header -/

/-- A header field at its offset (12.1). -/
def hNode (h : List Byte) : Nat := field1 h 8
def hRing (h : List Byte) : Nat := field1 h 9
def hBase (h : List Byte) : Nat := field1 h 10
def hCount (h : List Byte) : Nat := field1 h 11
def hLength (h : List Byte) : Nat := field2 h 6

/-- The length that the Length check requires (12.1). -/
def imageLength (ring count : Nat) : Nat :=
  Config.headerBytes + Config.spanRecordBytes * ring + Config.circuitRecordBytes * count + Config.trailerBytes

/-- 01 R7, checks 1 to 7 in order: the cause of the first that fails, or None. -/
def headerFault (h : List Byte) : ListenCause :=
  if field1 h 0 ≠ 0x46 || field1 h 1 ≠ 0x37 || field1 h 2 ≠ 0x31 || field1 h 3 ≠ 0x34 then .signature
  else if field1 h 4 ≠ 1 then .version
  else if hRing h < 3 || Config.maxNodes < hRing h then .ringSize
  else if hRing h ≤ hNode h then .nodeNumber
  else if hBase h < 24 || 44 < hBase h then .spareBase
  else if 192 < hCount h then .circuitCount
  else if Config.maxImage < hLength h || hLength h ≠ imageLength (hRing h) (hCount h) then .length
  else .none

/-- A value taken to the nearest limit of its range, and 1 when it was changed (01 R8). -/
def clamp (low high v : Nat) : Nat × Nat := if v < low then (low, 1) else if high < v then (high, 1) else (v, 0)

/-- The clamped header fields in the order of the table of 01 R8, the rate apart. -/
def headerFields (h : List Byte) : List (Nat × Nat) :=
  [clamp 0 100 (field1 h 12), clamp 1 50 (field1 h 13), clamp 3 72 (field1 h 14), clamp 1 65535 (field2 h 16),
   clamp 1 10 (field1 h 15), clamp 1 50 (field1 h 18), clamp 5 250 (field1 h 19), clamp 0 255 (field1 h 20),
   clamp 0 99 (field1 h 21), clamp 1 100 (field1 h 22), clamp 1 50 (field1 h 23)]

/-- A rate code that names no rate is replaced by Slow and counted (01 R8). -/
def rateClamped (h : List Byte) : Nat := if field1 h 24 ≤ 2 then 0 else 1

/-- The clamped count of the header (01 R8). -/
def headerClamped (h : List Byte) : Nat := ((headerFields h).map (·.2)).sum + rateClamped h

/-- The identity, when ring size and node number are in range (01 R14). -/
def headerIdent (h : List Byte) : Option Ident :=
  if 3 ≤ hRing h && hRing h ≤ Config.maxNodes && hNode h < hRing h then some ⟨hNode h, hRing h⟩ else none

/-- The plan values of a header, clamped and in ticks (01 R8), the spare base at its nearest limit (R14). -/
def headerPlan (h : List Byte) : Plan :=
  let value (i : Nat) : Nat := ((headerFields h)[i]?.map (·.1)).getD 0
  { ident := headerIdent h
    spareBase := (clamp 24 44 (hBase h)).1
    holdOff := value 0 * 1000
    soak := value 1 * 10000
    waitToRestore := value 2 * 1000000
    degradeThreshold := value 3
    degradeWindows := value 4
    refresh := value 5 * 10000
    claimTimeout := value 6 * 1000
    transitPenalty := value 7
    passCost := value 8
    stepInterval := value 9 * 10
    settle := value 10 * 100
    topRate := Rate.ofCode (field1 h 24)
    spans := [] }

/-- Node number, ring size and spare base as read (11 R183). -/
def headerAsRead (h : List Byte) : AsRead := ⟨hNode h, hRing h, hBase h⟩

/-! ## Span records (01 R9) -/

/-- One span record, clamped, and the fields replaced. -/
def spanRecord (image : List Byte) (i : Nat) : SpanPlan × Nat :=
  let at' := Config.headerBytes + Config.spanRecordBytes * i
  let length := clamp 1 20000 (field2 image at')
  let cost := clamp 1 999 (field2 image (at' + 2))
  (⟨length.1, cost.1⟩, length.2 + cost.2)

/-! ## Circuit records (01 R10) -/

def Class.ofCode : Nat → Option Class
  | 0 => some .none
  | 1 => some .opportunistic
  | 2 => some .preplanned
  | _ => Option.none

/-- A lane field: FFh is absent (12). -/
def absentable (v : Nat) : Option Nat := if v = 0xFF then none else some v

/-- 01 R2: the role of a record at a node. -/
def roleAt (i : Ident) (a z : Nat) (dir : Side) : Option Role :=
  if i.node = a then some .head
  else if i.node = z then some .tail
  else if (arcInner i.ring a z dir).contains i.node then some .transit
  else none

/-- 01 R2: the sides on which a record uses its working lane. -/
def Circuit.workingSides (c : Circuit) : List Side :=
  match c.role with
  | .head => [c.dir]
  | .tail => [c.dir.other]
  | .transit => [.east, .west]

/-- A record is used as an end here. -/
def Circuit.isEnd (c : Circuit) : Bool := c.role != .transit

/-- 01 R10, checks 7 to 9: a record against one accepted before it. -/
def Circuit.clashes (c old : Circuit) : Bool :=
  c.id = old.id || (c.isEnd && old.isEnd && c.port = old.port) ||
    (c.lane = old.lane && c.workingSides.any fun side => old.workingSides.contains side)

/-- A record's plan fields with its run-time fields at their values at creation (06 R86). -/
def Circuit.create (id a z : Nat) (dir : Side) (lane : Nat) (role : Role) (cls : Class) (preplanned : Option Nat)
    (priority bundle : Nat) (revertive : Bool) (ceiling allowance : Nat) (port : Option Nat) : Circuit where
  id := id
  a := a
  z := z
  dir := dir
  lane := lane
  role := role
  planClass := cls
  cls := cls
  preplanned := preplanned
  priority := priority
  bundle := bundle
  revertive := revertive
  ceiling := ceiling
  allowance := allowance
  port := port
  state := .working
  request := .none
  detour := none
  parked := none
  tag := 0
  count := 0
  excluded := []
  claimTimeout := none
  waitToRestore := none
  headNode := a
  reason := .none
  attempt := .open
  retuned := false
  inEffect := false

/-- 01 R10, checks 1 to 6: the record at an offset of the image, unless one of its own fields is at fault. -/
def decodeRecord (i : Ident) (base : Nat) (image : List Byte) (at' : Nat) : Option Circuit :=
  let a := field1 image (at' + 2)
  let z := field1 image (at' + 3)
  let lane := field1 image (at' + 5)
  let port := field1 image (at' + 11)
  if i.ring ≤ a || i.ring ≤ z || a = z then none
  else
    match Side.ofCode (field1 image (at' + 4)), Class.ofCode (field1 image (at' + 6)) with
    | some dir, some cls =>
      if 1 < field1 image (at' + 10) || 7 < field1 image (at' + 8) || 15 < field1 image (at' + 9) || base ≤ lane then none
      else
        match roleAt i a z dir with
        | none => none
        | some role =>
          if role ≠ .transit && 11 < port then none
          else some (Circuit.create (field2 image at' % 4096) a z dir lane role cls (absentable (field1 image (at' + 7)))
            (field1 image (at' + 8)) (field1 image (at' + 9)) (field1 image (at' + 10) = 1) (field2 image (at' + 12))
            (clamp 0 9999 (field2 image (at' + 14))).1 (if role = .transit then none else some port))
    | _, _ => none

/-- What the taking of circuit records has come to: accepted so far, discarded, clamped. -/
structure Records where
  accepted : List Circuit
  discarded : Nat
  clamped : Nat
deriving DecidableEq, Repr

/-- 01 R10: the next record in image order; an accepted record's allowance is counted when it was clamped (Log 12). -/
def takeRecord (i : Ident) (base : Nat) (image : List Byte) (r : Records) (index : Nat) : Records :=
  let at' := Config.headerBytes + Config.spanRecordBytes * i.ring + Config.circuitRecordBytes * index
  match decodeRecord i base image at' with
  | none => { r with discarded := r.discarded + 1 }
  | some c =>
    if r.accepted.any c.clashes then { r with discarded := r.discarded + 1 }
    else
      { r with
        accepted := r.accepted ++ [c]
        clamped := r.clamped + (clamp 0 9999 (field2 image (at' + 14))).2 }

/-! ## Corrections (01 R11) -/

/-- The records in ascending id. -/
def insertById (c : Circuit) : List Circuit → List Circuit
  | [] => [c]
  | d :: rest => if c.id < d.id then c :: d :: rest else d :: insertById c rest

def sortById (cs : List Circuit) : List Circuit := cs.foldl (fun sorted c => insertById c sorted) []

/-- 01 R11, Preplanned lane: whether a record is corrected, and the record. -/
def correctLane (base : Nat) (c : Circuit) : Circuit × Nat :=
  match c.planClass with
  | .preplanned =>
    if c.preplanned.any fun lane => base ≤ lane && lane < Config.lanes then (c, 0)
    else ({ c with planClass := .opportunistic, cls := .opportunistic, preplanned := none }, 1)
  | _ => ({ c with preplanned := none }, 0)

/-- 01 R11, bundle consistency: a later member whose ends or direction differ from the first leaves the bundle. -/
def keepsBundle (cs : List Circuit) (c : Circuit) : Bool :=
  match cs.find? fun m => m.bundle = c.bundle with
  | some first => first.a = c.a && first.z = c.z && first.dir = c.dir
  | none => true

/-- 01 R11, bundle size: a member beyond the eighth leaves the bundle. -/
def withinBundle (cs : List Circuit) (c : Circuit) : Bool :=
  (cs.filter fun m => m.bundle = c.bundle && m.id < c.id).length < 8

/-- The records whose bundle does not satisfy `keeps` become independent; each is counted. -/
def correctBundles (keeps : List Circuit → Circuit → Bool) (cs : List Circuit) : List Circuit × Nat :=
  let leaves (c : Circuit) : Bool := c.bundle ≠ 0 && !keeps cs c
  (cs.map fun c => if leaves c then { c with bundle := 0 } else c, (cs.filter leaves).length)

/-- 01 R11: every correction, on the accepted records in ascending id, and how many there were. -/
def correctAll (base : Nat) (accepted : List Circuit) : List Circuit × Nat :=
  let laned := (sortById accepted).map (correctLane base)
  let consistent := correctBundles keepsBundle (laned.map (·.1))
  let sized := correctBundles withinBundle consistent.1
  (sized.1, (laned.map (·.2)).sum + consistent.2 + sized.2)

/-- 01 R16: the current class: the demoted class when it is below the plan class. -/
def derivedClass (demotions : List Demotion) (c : Circuit) : Class :=
  match demotions.find? fun d => d.id = c.id with
  | some d => if d.cls.rank < c.planClass.rank then d.cls else c.planClass
  | none => c.planClass

/-! ## The whole image (01 R7 checks 8 and 9) -/

/-- The bytes of the read as the image length gives them: short reads are filled with the all-ones of a missing memory
(Log 11). -/
def fitBytes (n : Nat) (bs : List Byte) : List Byte := (bs ++ List.replicate n 0xFF).take n

/-- 01 R7, checks 8 and 9. -/
def trailerFault (image : List Byte) : ListenCause :=
  if field1 image (image.length - 2) ≠ 0x5A then .trailer
  else if byteSum image ≠ 0 then .check
  else .none

end Sys2Proof.Machine
end

