-- ==== Sys2Proof/Machine/Nrv.lean ====
section
/-! DEFINITION. The Notice Relay and Ring View (05): own reports and their notices, the acceptance and relay of notices,
restart handling, freshness and refresh, and the commands of the block. -/

namespace Sys2Proof.Machine

/-! ## Notices as frames (12.2) -/

/-- 12.4 -/
def Condition.code : Condition → Nat
  | .clear => 0
  | .degraded => 1
  | .cut => 2
  | .forcedOut => 3

def Condition.ofCode : Nat → Option Condition
  | 0 => some .clear
  | 1 => some .degraded
  | 2 => some .cut
  | 3 => some .forcedOut
  | _ => none

/-- 0 or 1, no or yes, Down or Up (12.4). -/
def bit (b : Bool) : Nat := if b then 1 else 0

/-- 12.2: the body of a Span Notice. -/
def spanNoticeFrame (origin : Nat) (side : Side) (r : Report) (hops : Nat) : Frame :=
  ⟨.spanNotice, [byte origin, byte side.code, byte r.condition.code, byte (bit r.linkUp), byte (bit r.locked), byte r.seq,
    byte hops]⟩

/-- 12.2: the body of a Restart Notice. -/
def restartNoticeFrame (origin hops : Nat) : Frame := ⟨.restartNotice, [byte origin, byte hops]⟩

/-- The fields of a Span Notice. -/
structure Notice where
  origin : Nat
  side : Side
  condition : Condition
  linkUp : Bool
  locked : Bool
  seq : Nat
  hops : Nat
deriving DecidableEq, Repr

/-- A hop budget above 23 is taken as 23 (05 R70, 08 R128). -/
def takenHops (b : Byte) : Nat := min b.toNat Config.maxHops

/-- 12 R197: the judgement of a Span Notice's fields, its origin apart. -/
def decodeNotice (body : List Byte) : Option Notice :=
  match Side.ofCode (field1 body 1), Condition.ofCode (field1 body 2) with
  | some side, some condition =>
    if field1 body 3 ≤ 1 && field1 body 4 ≤ 1 then
      some ⟨field1 body 0, side, condition, field1 body 3 = 1, field1 body 4 = 1, field1 body 5, takenHops (byteAt body 6)⟩
    else none
  | _, _ => none

/-! ## The Ring View -/

/-- An entry with no remote report (05 R66). -/
def SpanEntry.initial : SpanEntry where
  westEnd := none
  eastEnd := none
  status := .unknown
  locked := false
  degraded := false

/-- The end report of an entry. -/
def SpanEntry.report (e : SpanEntry) : SpanEnd → Option Report
  | .westEnd => e.westEnd
  | .eastEnd => e.eastEnd

/-- An entry with one end report replaced. -/
def SpanEntry.setReport (theEnd : SpanEnd) (r : Option Report) (e : SpanEntry) : SpanEntry :=
  match theEnd with
  | .westEnd => { e with westEnd := r }
  | .eastEnd => { e with eastEnd := r }

/-- The span and end that an origin and side name: East names span o and its West end, West names span o − 1 and its
East end (05 R65). -/
def namedEnd (ring origin : Nat) : Side → Nat × SpanEnd
  | .east => (origin, .westEnd)
  | .west => ((origin + ring - 1) % ring, .eastEnd)

/-- A remote report is written. -/
def setRemote (span : Nat) (theEnd : SpanEnd) (r : Option Report) (s : State) : State :=
  s.setNrv { s.nrv with ring := modifyAt span (SpanEntry.setReport theEnd r) s.nrv.ring }

/-- The remote report held for an end. -/
def remoteReport (s : State) (span : Nat) (theEnd : SpanEnd) : Option Report :=
  s.nrv.ring[span]?.bind fun e => e.report theEnd

/-- 05 R75, R76: one entry's derived values from its two reports as they now are. -/
def rederive (s : State) (span : Nat) (e : SpanEntry) : SpanEntry :=
  let (w, x) := spanReports s span
  { e with status := deriveStatus w x, locked := deriveLocked w x, degraded := deriveDegraded w x }

/-- The changes of the derived values of some spans between two ring lists: statuses first, then Locked, then Degraded
(the order of the table of 05 R77). -/
def spanChanges (spans : List Nat) (before after : State) : List SpanChange :=
  (spans.filterMap fun i =>
    if statusOf before i = statusOf after i then none else some (.status i (statusOf before i) (statusOf after i))) ++
  (spans.filterMap fun i =>
    if lockedOf before i = lockedOf after i then none else some (.locked i (lockedOf after i))) ++
  (spans.filterMap fun i =>
    if degradedOf before i = degradedOf after i then none else some (.degraded i (degradedOf after i)))

/-- The part of the changes that the Detour Claim Engine is handed (05 R77). -/
def SpanChange.toDce : SpanChange → Option DceHand
  | .status i old new => some (.status i old new)
  | .locked i set => some (.locked i set)
  | .degraded _ _ => none

/-- 05 R79: the new map is handed when the set of Failed spans changed with two or more Failed before or after; so a repair
from two to one hands it, though 10 R178 also says that a repair which leaves one hands none (Log 42). -/
def mapHanded (before after : List SpanEntry) : Bool :=
  failedSpans before != failedSpans after &&
    (2 ≤ (failedSpans before).length || 2 ≤ (failedSpans after).length)

/-- Every recomputation that an event on the reports of some spans calls for: the entries' derived values, then the
segment map (05 R75, R76, R78). -/
def recompute (spans : List Nat) (s : State) : State :=
  let ring := spans.foldl (fun r i => modifyAt i (rederive s i) r) s.nrv.ring
  s.setNrv { s.nrv with ring := ring, segments := segmentMap ring }

/-- 05 R77, R82: the hand-offs of one event: the restart of a node, when the event is one, and then the changes between two
states, to the Circuit Logic as one entry (10 R177) and to the Detour Claim Engine one by one. -/
def handChanges (spans : List Nat) (restart : Option Nat) (before s : State) : State :=
  let changes := spanChanges spans before s
  let map := if mapHanded before.nrv.ring s.nrv.ring then some s.nrv.segments else none
  let forCcl : List CclHand :=
    if restart.isNone && changes.isEmpty && map.isNone then [] else [⟨restart, false, changes, map⟩]
  (s.setToCcl (s.toCcl ++ forCcl)).setToDce
    (s.toDce ++ (restart.map DceHand.restart).toList ++ changes.filterMap SpanChange.toDce)

/-! ## Own reports (R67 to R69) -/

/-- The own report of a side, once the load has installed it. -/
def ownReport (s : State) (side : Side) : Option Report := s.nrv.own.get side

def setOwn (side : Side) (r : Report) (s : State) : State := s.setNrv { s.nrv with own := s.nrv.own.set side (some r) }

/-- 05 R68: a Span Notice for a side is originated, a copy offered to each link. -/
def originate (side : Side) (urgent : Bool) (s : State) : State :=
  match s.ident, ownReport s side with
  | some i, some r =>
    let r' := { r with seq := (r.seq + 1) % 256 }
    let f := spanNoticeFrame i.node side r' (i.ring - 1)
    offerNotice .west urgent f (offerNotice .east urgent f (setOwn side r' s))
  | _, _ => s

/-- 05 R67: a new own report; when one of its three fields changed it is written, the entry is recomputed, an urgent
Span Notice is originated and the changes are handed on. Without an identity the report is taken and nothing more. -/
def takeOwn (side : Side) (condition : Condition) (linkUp locked : Bool) (s : State) : State :=
  match ownReport s side with
  | none => s
  | some r =>
    if r.condition = condition && r.linkUp = linkUp && r.locked = locked then s
    else
      let written := setOwn side { r with condition := condition, linkUp := linkUp, locked := locked } s
      match s.ident with
      | none => written
      | some i =>
        let span := i.span side
        handChanges [span] none s (originate side true (recompute [span] written))

/-- A Span Monitor's report (03 R41): the declared condition and the Spares Locked flag. -/
def monitorReport (side : Side) (condition : Condition) (locked : Bool) (s : State) : State :=
  match ownReport s side with
  | none => s
  | some r => takeOwn side condition r.linkUp locked s

/-- A Span Link's report (04 R53): the link status alone. -/
def linkStatus (side : Side) (linkUp : Bool) (s : State) : State :=
  match ownReport s side with
  | none => s
  | some r => takeOwn side r.condition linkUp r.locked s

/-- 05 R80, 10 R177: the second Restart Notice joins the hand-off that its event has added to the first `waiting` ones, or
makes one alone. -/
def withSecond (waiting : Nat) (hands : List CclHand) : List CclHand :=
  hands.take waiting ++
    match hands.drop waiting with
    | [] => [⟨none, true, [], none⟩]
    | h :: rest => { h with second := true } :: rest

/-- 05 R80: a link that reports Up for the first time since the reset sends this node's Restart Notice and both Span
Notices; the second side to do so hands the second Restart Notice to the Circuit Logic. -/
def linkReportsUp (side : Side) (s : State) : State :=
  match s.ident with
  | none => linkStatus side true s
  | some i =>
    if s.nrv.restartSent.get side then linkStatus side true s
    else
      let marked := s.setNrv { s.nrv with restartSent := s.nrv.restartSent.set side true }
      let noticed := linkStatus side true (offerNotice side true (restartNoticeFrame i.node (i.ring - 1)) marked)
      let both := originate side.other true noticed
      if s.nrv.restartSent.get side.other then both.setToCcl (withSecond s.toCcl.length both.toCcl) else both

/-! ## Taking from the receive holding (04 R57) -/

/-- The oldest frame of a consumer's kinds in a link's holding, and the holding without it; only a link in UP hands
frames on. -/
def takeHeld (mine : FrameKind → Bool) (l : Link) : Option (Frame × Link) :=
  if l.state = .up then
    match l.holding.find? fun f => mine f.kind with
    | some f => some (f, { l with holding := l.holding.eraseP fun g => mine g.kind })
    | none => none
  else none

/-- A consumer takes its next frame from a side's holding when that frame is of the kind the command names; otherwise
the command's event has not happened and nothing changes (Log 2). -/
def takeFrame (mine : FrameKind → Bool) (kind : FrameKind) (side : Side) (act : Frame → State → State) (s : State) :
    State :=
  if s.running then
    match takeHeld mine (s.linkAt side) with
    | some (f, l) => if f.kind = kind then act f (s.setLink side l) else s
    | none => s
  else s

/-! ## Span Notices (R70 to R73, R84) -/

/-- 05 R72 step 3, R82 step 6: the hop budget goes down by one and, if some is left, the frame goes to the other link. -/
def relay (arrival : Side) (urgent : Bool) (hops : Nat) (f : Frame) (s : State) : State :=
  if hops - 1 = 0 then s else offerNotice arrival.other urgent (f.withHops (hops - 1)) s

/-- 05 R71: the acceptance rule against the report that the notice names. -/
def acceptsNotice (seq : Nat) : Option Report → Bool
  | none => true
  | some r => r.stale || newer seq r.seq

/-- 05 R72 step 3: the relay is urgent when the notice brought news. -/
def noticeIsNews (n : Notice) : Option Report → Bool
  | none => true
  | some r => r.stale || r.condition != n.condition || r.linkUp != n.linkUp || r.locked != n.locked

/-- Four times this node's refresh interval (05 R72, R82). -/
def fourRefreshes (s : State) : Nat := Config.freshIntervals * s.plan.refresh

/-- 05 R72 step 1: the report that an accepted notice leaves. -/
def noticeReport (s : State) (n : Notice) : Report :=
  ⟨n.condition, n.linkUp, n.locked, n.seq, false, arm s (fourRefreshes s)⟩

/-- 05 R72: an accepted notice. -/
def acceptNotice (i : Ident) (arrival : Side) (n : Notice) (f : Frame) (s : State) : State :=
  let (span, theEnd) := namedEnd i.ring n.origin n.side
  let news := noticeIsNews n (remoteReport s span theEnd)
  let written := recompute [span] (setRemote span theEnd (some (noticeReport s n)) s)
  relay arrival news n.hops f (handChanges [span] none s written)

/-- 05 R70, R71, R73: a Span Notice at a node that knows its identity. -/
def judgeNotice (i : Ident) (arrival : Side) (n : Notice) (f : Frame) (s : State) : State :=
  if n.origin = i.node || i.ring ≤ n.origin then s
  else
    let (span, theEnd) := namedEnd i.ring n.origin n.side
    if acceptsNotice n.seq (remoteReport s span theEnd) then acceptNotice i arrival n f s else s

/-- The relay record of an origin and side. -/
def relayRecord (s : State) (origin : Nat) (side : Side) : Option Nat := ((s.nrv.relay.get side)[origin]?).join

def setRelay (origin : Nat) (side : Side) (seq : Option Nat) (s : State) : State :=
  s.setNrv { s.nrv with relay := s.nrv.relay.set side (modifyAt origin (fun _ => seq) (s.nrv.relay.get side)) }

/-- 05 R84: a Span Notice at a node whose identity is unknown. -/
def relayNotice (arrival : Side) (n : Notice) (f : Frame) (s : State) : State :=
  if Config.maxNodes ≤ n.origin then s
  else if (relayRecord s n.origin n.side).all fun t => newer n.seq t then
    relay arrival true n.hops f (setRelay n.origin n.side (some n.seq) s)
  else s

/-- A Span Notice taken from a link; a body with a bad field is discarded (12 R197). -/
def takeSpanNotice (arrival : Side) (f : Frame) (s : State) : State :=
  match decodeNotice f.body with
  | none => s
  | some n =>
    match s.ident with
    | some i => judgeNotice i arrival n f s
    | none => relayNotice arrival n f s

/-! ## Restart Notices (R81, R82, R84) -/

/-- 05 R82: the two end reports that a node supplies, the East span's first: of two changes of one row the East span's is
handed first (Log 44). -/
def endsOf (ring origin : Nat) : List (Nat × SpanEnd) := [namedEnd ring origin .east, namedEnd ring origin .west]

/-- The restart guard deadline of an origin and arrival link. -/
def guardOf (s : State) (origin : Nat) (arrival : Side) : Deadline := ((s.nrv.guards.get arrival)[origin]?).join

def setGuard (origin : Nat) (arrival : Side) (d : Deadline) (s : State) : State :=
  s.setNrv { s.nrv with guards := s.nrv.guards.set arrival (modifyAt origin (fun _ => d) (s.nrv.guards.get arrival)) }

/-- 05 R82: an accepted Restart Notice from `origin`. -/
def acceptRestart (i : Ident) (arrival : Side) (origin hops : Nat) (f : Frame) (s : State) : State :=
  let guarded := setGuard origin arrival (arm s (fourRefreshes s)) s
  let cleared := (endsOf i.ring origin).foldl (fun t (e : Nat × SpanEnd) => setRemote e.1 e.2 none t) guarded
  let spans := (endsOf i.ring origin).map (·.1)
  post (.restartHeard origin arrival)
    (relay arrival true hops f (handChanges spans (some origin) s (recompute spans cleared)))

/-- 05 R81: a Restart Notice taken from a link; R84 without an identity. -/
def takeRestartNotice (arrival : Side) (f : Frame) (s : State) : State :=
  let origin := field1 f.body 0
  let hops := takenHops (byteAt f.body 1)
  match s.ident with
  | some i =>
    if origin = i.node || i.ring ≤ origin then s
    else if guarding (guardOf s origin arrival) then s
    else acceptRestart i arrival origin hops f s
  | none =>
    if Config.maxNodes ≤ origin then s
    else
      post (.restartHeard origin arrival)
        (relay arrival true hops f (setRelay origin .west none (setRelay origin .east none s)))

/-! ## The load (R66) -/

/-- 05 R66, the end of the load: the own reports are installed, and with an identity the Ring View, the segment map and
the refresh deadlines. -/
def nrvStart (s : State) : State :=
  let own : Report := ⟨.clear, false, false, 0, false, none⟩
  match s.ident with
  | none => s.setNrv { s.nrv with own := ⟨some own, some own⟩ }
  | some i =>
    s.setNrv
      { s.nrv with
        own := ⟨some own, some own⟩
        ring := List.replicate i.ring .initial
        segments := List.replicate i.ring 0
        refresh := ⟨arm s s.plan.refresh, arm s s.plan.refresh⟩ }

/-! ## Commands -/

/-- 05 R69: the refresh deadline runs out, is armed again and originates a routine notice. -/
def refreshNow (side : Side) (s : State) : State :=
  if due s (s.nrv.refresh.get side) then
    originate side false (s.setNrv { s.nrv with refresh := s.nrv.refresh.set side (arm s s.plan.refresh) })
  else s

/-- REFRESH_EXPIRY (05 R69) -/
def execRefreshExpiry (side : Side) (s : State) : Host.Outcome State Fault Refusal :=
  .next (if s.running then refreshNow side s else s)

/-- 05 R74: a report whose freshness runs out. -/
def staleReport (span : Nat) (theEnd : SpanEnd) (r : Report) (s : State) : State :=
  let marked := recompute [span] (setRemote span theEnd (some { r with stale := true, freshness := none }) s)
  handChanges [span] none s marked

/-- FRESHNESS_EXPIRY (05 R74) -/
def execFreshnessExpiry (span : Nat) (theEnd : SpanEnd) (s : State) : Host.Outcome State Fault Refusal :=
  .next <|
    match remoteReport s span theEnd with
    | some r => if s.running && due s r.freshness then staleReport span theEnd r s else s
    | none => s

/-- RESTART_GUARD_EXPIRY (05 R83) -/
def execRestartGuardExpiry (origin : Nat) (side : Side) (s : State) : Host.Outcome State Fault Refusal :=
  .next (if s.running && due s (guardOf s origin side) then setGuard origin side none s else s)

/-- SPAN_NOTICE (05 R72) -/
def execSpanNotice (side : Side) (s : State) : Host.Outcome State Fault Refusal :=
  .next (takeFrame FrameKind.isNotice .spanNotice side (takeSpanNotice side) s)

/-- RESTART_NOTICE (05 R82) -/
def execRestartNotice (side : Side) (s : State) : Host.Outcome State Fault Refusal :=
  .next (takeFrame FrameKind.isNotice .restartNotice side (takeRestartNotice side) s)

end Sys2Proof.Machine
end

