-- ==== Sys2Proof/Machine/Links.lean ====
section
/-! DEFINITION. The Span Links (04): hails, rate agreement, readying, UP and leaving it, reception, sending, FAILED and the
loop test, and the commands of the block. The East link paces and the West link follows (R45). -/

namespace Sys2Proof.Machine

/-! ## State changes -/

/-- A link enters a state: a frame still being assembled counts as nothing (04 R54, incomplete). -/
def Link.enter (state : LinkState) (l : Link) : Link := { l with state := state, rx := .hunting }

/-- 04 R47: entering DOWN from any other state. What was in sending is cut off; a hail sequence that R49 let run on, and
the answer guard, run on. -/
def Link.enterDown (s : State) (l : Link) : Link :=
  { l.enter .down with
    sending := none, answerPaces := 0, hailCount := 0, lastBurstEnd := none, hailSeq := arm s Config.hailPeriod,
    rateWindow := none, listening := none, readying := none, failedHold := none, silence := none, keepalive := none,
    loopReturn := none }

/-- 04 R62: entering FAILED; nothing is sent there. -/
def Link.enterFailed (s : State) (l : Link) : Link :=
  { l.enter .failed with sending := none, rateWindow := none, failedHold := arm s Config.failedHold }

/-- 04 R50, R51: entering READYING on a valid Pace frame at `rate`, with the answering Pace frames still to be sent. -/
def Link.enterReadying (s : State) (rate : Rate) (answers : Nat) (l : Link) : Link :=
  ({ l.enter .readying with
     rate := some rate, rateWindow := none, listening := none, readyCount := 0, readying := arm s Config.readying,
     answerPaces := answers }).startSending s

/-- 04 R53, entering UP: the link, then the event, then the report to NRV. Frames held are handed on from now on. -/
def enterUp (side : Side) (s : State) : State :=
  let l := s.linkAt side
  let up := { l.enter .up with
    answerPaces := 0, readying := none, errorRun := 0, silence := arm s Config.silence, keepalive := arm s Config.keepalive }
  linkReportsUp side
    (post (.linkState side .up .readying (l.rate.getD .slow) .none) (s.setLink side up))

/-- 04 R53, leaving UP: the queues are emptied, the deadlines disarmed, the event posted and Down reported to NRV. The
link is no longer in UP when NRV offers the notice that follows (R61). -/
def leaveUp (side : Side) (cause : LinkCause) (s : State) : State :=
  let l := s.linkAt side
  let down := ({ l with urgent := [], routine := [], holding := [] }).enterDown s
  linkStatus side false
    (post (.linkState side .down .up (l.rate.getD .slow) cause) (s.setLink side down))

/-! ## Hails (R47 to R49) -/

/-- The first burst of a hail sequence begins. -/
def Link.startHail (s : State) (l : Link) : Link := { l with hail := some ⟨1, false⟩, hailBurst := arm s Config.hailBurst }

/-- 04 R47: the hail burst deadline's expiry: a gap follows a burst, a burst follows a gap, and the end of the sixth
burst arms the answer guard and lets a pacer's first Pace frame begin (R49). -/
def Link.hailOn (s : State) (l : Link) : Link :=
  match l.hail with
  | none => { l with hailBurst := none }
  | some h =>
    if h.gap then { l with hail := some ⟨h.burst + 1, false⟩, hailBurst := arm s Config.hailBurst }
    else if h.burst < Config.hailBursts then { l with hail := some ⟨h.burst, true⟩, hailBurst := arm s Config.hailGap }
    else
      ({ l with hail := none, hailBurst := none, answerGuard := arm s Config.answerGuard }).startSending s

/-- 04 R49: the answer to a recognized hail, unless a sequence is being sent or the answer guard holds it back. -/
def Link.answerHail (s : State) (l : Link) : Link :=
  if l.hail.isSome || guarding l.answerGuard then l else l.startHail s

/-- 04 R49: a recognized hail takes the link out of DOWN by its role. -/
def Link.recognize (s : State) (side : Side) (l : Link) : Link :=
  let left := { l.answerHail s with hailSeq := none, gapLimit := none, hailCount := 0 }
  match side with
  | .east => ({ left.enter .pacing with rate := left.topRate }).startSending s
  | .west => { left.enter .listening with listening := arm s Config.listening }

/-- 04 R48: the start of a received burst in DOWN. -/
def Link.burstStart (s : State) (l : Link) : Link :=
  let tooShort := match l.lastBurstEnd with
    | some t => 0 < l.hailCount && s.clock < t + Config.minGap
    | none => false
  { l with hailCount := if tooShort then 0 else l.hailCount, gapLimit := none }

/-- 04 R48: the end of a received burst in DOWN. -/
def Link.burstEnd (s : State) (side : Side) (l : Link) : Link :=
  let counted := { l with
    hailCount := l.hailCount + 1, lastBurstEnd := some s.clock, gapLimit := arm s Config.maxGap }
  if Config.hailCount ≤ counted.hailCount then counted.recognize s side else counted

/-! ## Reception (R50 to R52, R55 to R58) -/

/-- 04 R56, R58: a valid frame in UP. -/
def Link.heard (s : State) (l : Link) : Link := { l with errorRun := 0, silence := arm s Config.silence }

/-- 04 R57: a frame joins the receive holding, or is lost to overrun. -/
def Link.hold (f : Frame) (l : Link) : Link :=
  if l.holding.length < Config.holdingCapacity then { l with holding := l.holding ++ [f] }
  else { l with overruns := countUp 255 l.overruns }

/-- 04 R55: an errored frame is counted by its kind of error. -/
def Link.countError (e : FrameError) (l : Link) : Link :=
  match e with
  | .checkError => { l with checkErrors := countUp 255 l.checkErrors }
  | .framingError => { l with framingErrors := countUp 255 l.framingErrors }

/-- 04 R52: a valid frame other than Pace in READYING adds to the ready count; the third brings the link UP. -/
def countReady (side : Side) (s : State) : State :=
  let l := { s.linkAt side with readyCount := countUp 3 (s.linkAt side).readyCount }
  if 3 ≤ l.readyCount then enterUp side (s.setLink side l) else s.setLink side l

/-- A valid frame other than Pace, at a rate, in READYING or UP; elsewhere it is not acted on (04 R52, R56 to R58). -/
def takeOther (side : Side) (rate : Rate) (keep : Link → Link) (s : State) : State :=
  let l := s.linkAt side
  if l.rate = some rate then
    match l.state with
    | .readying => countReady side (s.setLink side (keep l))
    | .up => s.setLink side ((keep l).heard s)
    | .down => s
    | .pacing => s
    | .listening => s
    | .failed => s
    | .loop => s
  else s

/-- A valid Pace frame at a rate (04 R50, R51, R52, R56). -/
def takePace (side : Side) (rate : Rate) (s : State) : State :=
  let l := s.linkAt side
  match l.state with
  | .pacing => if l.rate = some rate then s.setLink side (l.enterReadying s rate 0) else s
  | .listening =>
    if l.topRate.any fun top => rate.rank ≤ top.rank then s.setLink side (l.enterReadying s rate 3) else s
  | .readying => if l.rate = some rate then s.setLink side { l with readyCount := 0 } else s
  | .up => if l.rate = some rate then s.setLink side (l.heard s) else s
  | .down => s
  | .failed => s
  | .loop => s

/-- 04 R63: a Loop Test frame that comes back in LOOP is counted when its sending has begun and it was not counted
before (Log 9). -/
def Link.loopBack (seq : Nat) (l : Link) : Link :=
  let begun := l.loopSent + (if l.sending.isSome then 1 else 0)
  if 1 ≤ seq && seq ≤ begun && seq ≤ Config.loopFrames && !l.loopCounted.contains seq then
    { l with loopReturned := countUp Config.loopFrames l.loopReturned, loopCounted := l.loopCounted ++ [seq] }
  else l

/-- An errored frame (04 R52, R55, R56): acted on in READYING and UP alone. -/
def takeErrored (side : Side) (e : FrameError) (s : State) : State :=
  let l := s.linkAt side
  match l.state with
  | .readying => s.setLink side { l.countError e with readyCount := 0 }
  | .up =>
    let counted := { l.countError e with errorRun := l.errorRun + 1 }
    if 4 ≤ counted.errorRun then leaveUp side .errorRun (s.setLink side counted) else s.setLink side counted
  | .down => s
  | .pacing => s
  | .listening => s
  | .failed => s
  | .loop => s

/-! ## Sending (R59, R63) -/

/-- 04 R59, R63: the frame in sending completes. In UP the keepalive is re-armed; in LOOP the frame is counted and the
sixteenth arms the loop return. Then the next frame begins. -/
def Link.sent (s : State) (l : Link) : Link :=
  let done := { l with sending := none }
  match l.state with
  | .up => ({ done with keepalive := arm s Config.keepalive }).startSending s
  | .loop =>
    let count := countUp Config.loopFrames l.loopSent
    ({ done with
       loopSent := count,
       loopReturn := if count = Config.loopFrames then arm s Config.loopReturn else l.loopReturn }).startSending s
  | .pacing => done.startSending s
  | .readying => done.startSending s
  | .down => done
  | .listening => done
  | .failed => done

/-- 04 R59: the keepalive's expiry: an Idle frame when no frame is in sending. -/
def Link.keepAlive (l : Link) : Link :=
  let off := { l with keepalive := none }
  if l.sending.isSome then off else off.send ⟨.idle, []⟩

/-! ## Loop test (R63, R64) -/

/-- 04 R63: the Loop Test command taken in DOWN or FAILED. -/
def Link.startLoop (s : State) (l : Link) : Link :=
  ({ l.enter .loop with
     hailSeq := none, gapLimit := none, hailBurst := none, failedHold := none, hail := none, hailCount := 0,
     rate := some .slow, loopSent := 0, loopReturned := 0, loopCounted := [] }).startSending s

/-- 04 R63: whether the link takes the command, and the state it leaves. -/
def takeLoopTest (side : Side) (s : State) : Option State :=
  let l := s.linkAt side
  if l.state = .down || l.state = .failed then some (s.setLink side (l.startLoop s)) else none

/-! ## The load (R46) -/

/-- 04 R46: a link starts with the plan's top rate and a hail sequence deadline due at once. -/
def linkStart (side : Side) (s : State) : State :=
  s.setLink side
    { s.linkAt side with topRate := some s.plan.topRate, rate := some s.plan.topRate, hailSeq := arm s 0 }

/-! ## Commands -/

/-- A deadline of a link in a state expires: the link acts when the deadline is due and the node is out of START. -/
def onLinkExpiry (side : Side) (state : LinkState) (deadline : Link → Deadline) (act : Link → State → State) (s : State) :
    State :=
  let l := s.linkAt side
  if s.running && l.state = state && due s (deadline l) then act l s else s

/-- HAIL_SEQUENCE_EXPIRY (04 R47) -/
def execHailSequenceExpiry (side : Side) (s : State) : Host.Outcome State Fault Refusal :=
  .next <| onLinkExpiry side .down (·.hailSeq) (fun l s =>
    let rearmed := { l with hailSeq := arm s Config.hailPeriod }
    s.setLink side (if l.hail.isSome then rearmed else rearmed.startHail s)) s

/-- HAIL_BURST_EXPIRY (04 R47): taken in whatever state the sequence runs in. -/
def execHailBurstExpiry (side : Side) (s : State) : Host.Outcome State Fault Refusal :=
  .next <|
    let l := s.linkAt side
    if s.running && due s l.hailBurst then s.setLink side (l.hailOn s) else s

/-- HAIL_ANSWER_GUARD_EXPIRY (02 R27, 04 R47): the guard is disarmed in whatever state the link is in. -/
def execHailAnswerGuardExpiry (side : Side) (s : State) : Host.Outcome State Fault Refusal :=
  .next <|
    let l := s.linkAt side
    if s.running && due s l.answerGuard then s.setLink side { l with answerGuard := none } else s

/-- RECEIVED_BURST_START (04 R48) -/
def execReceivedBurstStart (side : Side) (s : State) : Host.Outcome State Fault Refusal :=
  .next <|
    let l := s.linkAt side
    if s.running && l.state = .down then s.setLink side (l.burstStart s) else s

/-- RECEIVED_BURST_END (04 R48, R49): counted by the state at the end of the burst, wherever its start fell (Log 38). -/
def execReceivedBurstEnd (side : Side) (s : State) : Host.Outcome State Fault Refusal :=
  .next <|
    let l := s.linkAt side
    if s.running && l.state = .down then s.setLink side (l.burstEnd s side) else s

/-- HAIL_GAP_LIMIT_EXPIRY (04 R48) -/
def execHailGapLimitExpiry (side : Side) (s : State) : Host.Outcome State Fault Refusal :=
  .next <| onLinkExpiry side .down (·.gapLimit) (fun l s =>
    s.setLink side { l with hailCount := 0, lastBurstEnd := none, gapLimit := none }) s

/-- 04 R50: the rate window's expiry: the next lower rate, or FAILED below Slow. -/
def Link.stepDown (s : State) (l : Link) : Link :=
  match (l.rate.getD .slow).lower with
  | some r => { l with rate := some r, rateWindow := arm s Config.rateWindow, rx := .hunting }
  | none => l.enterFailed s

/-- RATE_WINDOW_EXPIRY (04 R50) -/
def execRateWindowExpiry (side : Side) (s : State) : Host.Outcome State Fault Refusal :=
  .next <| onLinkExpiry side .pacing (·.rateWindow) (fun l s => s.setLink side (l.stepDown s)) s

/-- LISTENING_EXPIRY (04 R51) -/
def execListeningExpiry (side : Side) (s : State) : Host.Outcome State Fault Refusal :=
  .next <| onLinkExpiry side .listening (·.listening) (fun l s => s.setLink side (l.enterDown s)) s

/-- READYING_EXPIRY (04 R52): the receive holding is emptied and the link enters DOWN. -/
def execReadyingExpiry (side : Side) (s : State) : Host.Outcome State Fault Refusal :=
  .next <| onLinkExpiry side .readying (·.readying) (fun l s =>
    s.setLink side (({ l with holding := [] }).enterDown s)) s

/-- FAILED_HOLD_EXPIRY (04 R62) -/
def execFailedHoldExpiry (side : Side) (s : State) : Host.Outcome State Fault Refusal :=
  .next <| onLinkExpiry side .failed (·.failedHold) (fun l s => s.setLink side (l.enterDown s)) s

/-- SILENCE_EXPIRY (04 R58) -/
def execSilenceExpiry (side : Side) (s : State) : Host.Outcome State Fault Refusal :=
  .next <| onLinkExpiry side .up (·.silence) (fun _ s => leaveUp side .silence s) s

/-- KEEPALIVE_EXPIRY (04 R59) -/
def execKeepaliveExpiry (side : Side) (s : State) : Host.Outcome State Fault Refusal :=
  .next <| onLinkExpiry side .up (·.keepalive) (fun l s => s.setLink side l.keepAlive) s

/-- LOOP_RETURN_EXPIRY (04 R64) -/
def execLoopReturnExpiry (side : Side) (s : State) : Host.Outcome State Fault Refusal :=
  .next <| onLinkExpiry side .loop (·.loopReturn) (fun l s =>
    post (.loopResult side l.loopReturned) (s.setLink side (({ l with rate := l.topRate }).enterDown s))) s

/-- PACE_FRAME_RECEIVED (04 R50) -/
def execPaceFrameReceived (side : Side) (rate : Rate) (s : State) : Host.Outcome State Fault Refusal :=
  .next (if s.running then takePace side rate s else s)

/-- READY_FRAME_RECEIVED (04 R52) -/
def execReadyFrameReceived (side : Side) (rate : Rate) (s : State) : Host.Outcome State Fault Refusal :=
  .next (if s.running then takeOther side rate id s else s)

/-- IDLE_FRAME_RECEIVED (04 R58) -/
def execIdleFrameReceived (side : Side) (rate : Rate) (s : State) : Host.Outcome State Fault Refusal :=
  .next (if s.running then takeOther side rate id s else s)

/-- LOOP_TEST_FRAME_RECEIVED (04 R63): counted in LOOP, any other valid frame elsewhere (R52, R57). -/
def execLoopTestFrameReceived (side : Side) (rate : Rate) (seq : Byte) (s : State) : Host.Outcome State Fault Refusal :=
  .next <|
    let l := s.linkAt side
    if s.running then
      if l.state = .loop then (if l.rate = some rate then s.setLink side (l.loopBack seq.toNat) else s)
      else takeOther side rate id s
    else s

/-- HELD_FRAME_RECEIVED (04 R57). A frame that is not of a held kind with its kind's body length is a FramingError of
the link (R54, Log 22). -/
def execHeldFrameReceived (side : Side) (rate : Rate) (f : Frame) (s : State) : Host.Outcome State Fault Refusal :=
  .next <|
    if s.running then
      if f.holdable then takeOther side rate (Link.hold f) s
      else if (s.linkAt side).rate = some rate then takeErrored side .framingError s else s
    else s

/-- ERRORED_FRAME (04 R56) -/
def execErroredFrame (side : Side) (e : FrameError) (s : State) : Host.Outcome State Fault Refusal :=
  .next (if s.running then takeErrored side e s else s)

/-- FRAME_SEND_COMPLETE (04 R59) -/
def execFrameSendComplete (side : Side) (s : State) : Host.Outcome State Fault Refusal :=
  .next <|
    let l := s.linkAt side
    if s.running && l.sending.isSome then s.setLink side (l.sent s) else s

end Sys2Proof.Machine
end

