-- ==== Sys2Proof/Machine/Monitors.lean ====
section
/-! DEFINITION. The Span Monitors (03): raw fault, hold-off and soak, degrade windows, the operator flags, and the commands
of the block. -/

namespace Sys2Proof.Machine

/-- 03 R28: light absent or frame lock unlocked. -/
def Monitor.rawFault (m : Monitor) : Bool := !m.light || !m.lock

/-- 03 R41: the declared condition as the flag and the own condition give it. -/
def Monitor.declares (m : Monitor) : Condition := if m.forcedOut then .forcedOut else m.own

/-- 03 R31: the own condition on entering CLEAR. -/
def Monitor.clearOwn (m : Monitor) : Condition := if m.degraded then .degraded else .clear

/-- A monitor's new state with its declared condition brought up to date; a change of declared condition posts
SpanDeclared and is handed to NRV (03 R41, R42). -/
def declare (side : Side) (m : Monitor) (s : State) : State :=
  let old := m.declared.getD .clear
  let new := m.declares
  let stored := s.setMon side { m with declared := some new }
  if old = new then stored
  else monitorReport side new m.sparesLocked (post (.spanDeclared side new old m.state) stored)

/-- 03 R31, R32, R33, R35: entering CUT. -/
def Monitor.enterCut (m : Monitor) : Monitor := { m with state := .cut, own := .cut, holdOff := none, soak := none }

/-- 03 R33, R35: entering CLEAR. -/
def Monitor.enterClear (m : Monitor) : Monitor :=
  { m with state := .clear, own := m.clearOwn, holdOff := none, soak := none }

/-- 03 R32, R35: the onset of a raw fault. -/
def Monitor.onset (s : State) (m : Monitor) : Monitor :=
  match m.state with
  | .clear => if s.plan.holdOff = 0 then m.enterCut else { m with state := .holdoff, holdOff := arm s s.plan.holdOff }
  | .soak => m.enterCut
  | .holdoff => m
  | .cut => m

/-- 03 R33, R34: the end of a raw fault. -/
def Monitor.faultEnd (s : State) (m : Monitor) : Monitor :=
  match m.state with
  | .holdoff => m.enterClear
  | .cut => { m with state := .soak, soak := arm s s.plan.soak }
  | .clear => m
  | .soak => m

/-- The monitor with new input indications; an onset or an end of the raw fault goes to the state machine when the node
is out of START, and is only recorded otherwise (03 R28). -/
def indicate (side : Side) (m' : Monitor) (s : State) : State :=
  let before := (s.monAt side).rawFault
  if s.running && before != m'.rawFault then
    declare side (if m'.rawFault then m'.onset s else m'.faultEnd s) s
  else s.setMon side m'

/-- 03 R37: the runs and the indication after a window of `count` errored blocks. -/
def Monitor.judgeWindow (threshold windows : Nat) (m : Monitor) : Monitor :=
  if threshold ≤ m.windowCount then
    let bad := countUp windows m.badRun
    { m with goodRun := 0, badRun := bad, degraded := m.degraded || bad = windows }
  else
    let good := countUp windows m.goodRun
    { m with badRun := 0, goodRun := good, degraded := m.degraded && good ≠ windows }

/-- 03 R38: in CLEAR the own condition follows the indication. -/
def Monitor.followIndication (m : Monitor) : Monitor := if m.state = .clear then { m with own := m.clearOwn } else m

/-- 03 R36: the window boundary: the window is judged, the count restarts and the deadline moves to the next
boundary. -/
def Monitor.boundary (s : State) (m : Monitor) : Monitor :=
  { (m.judgeWindow s.plan.degradeThreshold s.plan.degradeWindows).followIndication with
    windowCount := 0, window := nextBoundary s }

/-- 03 R39: the Forced Out flag. -/
def setForced (side : Side) (set : Bool) (s : State) : State :=
  declare side { s.monAt side with forcedOut := set } s

/-- 03 R40: the Spares Locked flag; a change is reported to NRV with no event. -/
def setLocked (side : Side) (set : Bool) (s : State) : State :=
  let m := { s.monAt side with sparesLocked := set }
  if (s.monAt side).sparesLocked = set then s
  else monitorReport side (m.declared.getD .clear) set (s.setMon side m)

/-- 03 R30: a monitor starts at the end of a load. Its first report, Clear and not locked, is the one that NRV installs
(05 R66); it posts nothing. A raw fault present is then taken as an onset in CLEAR. -/
def monitorStart (side : Side) (s : State) : State :=
  let m := { s.monAt side with declared := some .clear, window := nextBoundary s }
  if m.rawFault then declare side (m.onset s) s else s.setMon side m

/-! ## Commands -/

/-- LIGHT_CHANGE (03 R28): the level is a pin and is followed in reset too. -/
def execLightChange (side : Side) (present : Bool) (s : State) : Host.Outcome State Fault Refusal :=
  .next (indicate side { s.monAt side with light := present } s)

/-- FRAME_LOCK_CHANGE (03 R28) -/
def execFrameLockChange (side : Side) (locked : Bool) (s : State) : Host.Outcome State Fault Refusal :=
  .next (indicate side { s.monAt side with lock := locked } s)

/-- ERRORED_BLOCK_PULSE (03 R36) -/
def execErroredBlockPulse (side : Side) (s : State) : Host.Outcome State Fault Refusal :=
  .next <|
    let m := s.monAt side
    if s.running then s.setMon side { m with windowCount := countUp 65535 m.windowCount } else s

/-- HOLD_OFF_EXPIRY (03 R33) -/
def execHoldOffExpiry (side : Side) (s : State) : Host.Outcome State Fault Refusal :=
  .next <|
    let m := s.monAt side
    if s.running && m.state = .holdoff && due s m.holdOff then declare side m.enterCut s else s

/-- CLEAR_SOAK_EXPIRY (03 R35) -/
def execClearSoakExpiry (side : Side) (s : State) : Host.Outcome State Fault Refusal :=
  .next <|
    let m := s.monAt side
    if s.running && m.state = .soak && due s m.soak then declare side m.enterClear s else s

/-- WINDOW_BOUNDARY_EXPIRY (03 R37) -/
def execWindowBoundaryExpiry (side : Side) (s : State) : Host.Outcome State Fault Refusal :=
  .next <|
    let m := s.monAt side
    if s.running && due s m.window then declare side (m.boundary s) s else s

end Sys2Proof.Machine
end

