-- ==== Sys2Proof/Machine/Tpc.lean ====
section
/-! DEFINITION. The Tunable Port Controller (09 section 9.2): stepping slots, homing, retunes, faults and rehoming. What
the controller reports to a port's owner joins the reports of the step (Log 5). -/

namespace Sys2Proof.Machine

/-- A port number the part does not have reads as an unhomed port; no rule names one. -/
def portAt (s : State) (port : Nat) : Port := (s.tpc.ports[port]?).getD (.reset false false)

def setPort (port : Nat) (p : Port) (s : State) : State :=
  s.setTpc { s.tpc with ports := modifyAt port (fun _ => p) s.tpc.ports }

/-- The number of the slot that a port holds, counting from 0. -/
def slotOf (s : State) (port : Nat) : Option Nat := s.tpc.slots.findIdx? fun slot => slot.holder = some port

/-- The step deadline of the slot that a port holds. -/
def stepDeadline (s : State) (port : Nat) : Deadline :=
  match slotOf s port with
  | none => none
  | some i => (s.tpc.slots[i]?).bind (·.step)

/-- The slot that a port holds, with its step deadline replaced. -/
def setStep (port : Nat) (d : Deadline) (s : State) : State :=
  s.setTpc
    { s.tpc with slots := s.tpc.slots.map fun slot => if slot.holder = some port then { slot with step := d } else slot }

/-- The step deadline armed afresh with the tuning step interval. -/
def armStep (port : Nat) (s : State) : State := setStep port (arm s s.plan.stepInterval) s

/-- A port is on the wait list. -/
def isWaiting (s : State) (port : Nat) : Bool := s.tpc.waiting.contains port

/-- A port leaves the wait list. -/
def leaveWait (port : Nat) (s : State) : State :=
  s.setTpc { s.tpc with waiting := s.tpc.waiting.filter (· ≠ port) }

/-- 09 R156, R158: what a port does on taking a slot, by its slot request. A fault or home indication that stands at the
start of homing is taken next in the step (R156, Log 5). -/
def beginSlot (port : Nat) (s : State) : State :=
  let p := portAt s port
  match p.request with
  | .none => s
  | .home =>
    let homing := setPort port { p with homeCount := 0, present := none, state := .homing } s
    if p.faultInd then addWork (.faultAtStart port) homing
    else if p.homeInd then addWork (.homeAtStart port) homing
    else homing
  | .step => setPort port { p with state := .stepping } s

/-- 09 R155: a port takes slot `i`, leaving the wait list, the step deadline armed with the interval. -/
def takeSlot (i port : Nat) (s : State) : State :=
  let left := leaveWait port s
  beginSlot port
    (left.setTpc
      { left.tpc with slots := modifyAt i (fun _ => ⟨some port, arm s s.plan.stepInterval⟩) left.tpc.slots })

/-- The lowest-numbered free slot (Log 10). -/
def freeSlotIndex (s : State) : Option Nat := s.tpc.slots.findIdx? fun slot => slot.holder = none

/-- In HOMING or STEPPING a port holds a slot (09 R155). -/
def Port.moving (p : Port) : Bool := p.state = .homing || p.state = .stepping

/-- 09 R155: a port needs a slot: it takes a free one at once, or joins the wait list. A port that moves holds one already. -/
def needSlot (port : Nat) (request : SlotRequest) (s : State) : State :=
  if (portAt s port).moving then s
  else
    let asked := setPort port { portAt s port with request := request } s
    match freeSlotIndex asked with
    | some i => takeSlot i port asked
    | none =>
      if isWaiting asked port then asked
      else asked.setTpc { asked.tpc with waiting := asked.tpc.waiting ++ [port] }

/-- The lowest-numbered port of a list. -/
def lowest : List Nat → Option Nat
  | [] => none
  | p :: rest => some (rest.foldl min p)

/-- 09 R155: a port frees its slot, and the lowest-numbered waiting port takes it. -/
def freeSlot (port : Nat) (s : State) : State :=
  match slotOf s port with
  | none => s
  | some i =>
    let freed := s.setTpc { s.tpc with slots := modifyAt i (fun _ => Slot.free) s.tpc.slots }
    match lowest freed.tpc.waiting with
    | none => freed
    | some next => takeSlot i next freed

/-- 09 R157: homing completes. -/
def homed (port : Nat) (s : State) : State :=
  let p := { portAt s port with present := some 0, homeCount := 0, request := .none }
  let posted := post (.portHomed port) s
  match p.target with
  | some (t + 1) =>
    addWork (.homed port)
      (armStep port (setPort port { p with target := some (t + 1), request := .step, state := .stepping } posted))
  | some 0 =>
    addWork (.homed port)
      (addWork (.retuned port 0) (freeSlot port (setPort port { p with target := none, state := .idle } posted)))
  | none => addWork (.homed port) (freeSlot port (setPort port { p with state := .idle } posted))

/-- 09 R159: a port has reached its target and reports it. -/
def reached (port lane : Nat) (s : State) : State :=
  addWork (.retuned port lane)
    (freeSlot port (setPort port { portAt s port with target := none, request := .none, state := .idle } s))

/-- 09 R161: a port goes to FAULT from another state. -/
def portFault (port : Nat) (s : State) : State :=
  let p := portAt s port
  let faulty := { p with state := .fault, present := none, target := none, request := .none, homeCount := 0 }
  addWork (.faulted port)
    (freeSlot port (leaveWait port (post (.portFault port p.state) (setPort port faulty s))))

/-- 09 R158, R160: a retune request for a port, taken in the port's state. A port waiting to step whose new target is its
present lane keeps no target (Log 41). -/
def retuneByState (port lane : Nat) (s : State) : State :=
  let p := portAt s port
  let held := setPort port { p with target := some lane } s
  match p.state with
  | .unhomed => held
  | .homing => held
  | .idle =>
    if isWaiting s port then
      if p.request = .step && p.present = some lane then
        addWork (.retuned port lane)
          (leaveWait port (setPort port { p with target := none, request := .none } s))
      else held
    else if p.present = some lane then addWork (.retuned port lane) s
    else needSlot port .step held
  | .stepping => if p.present = some lane then reached port lane held else armStep port held
  | .fault => if isWaiting s port then held else s

/-- A retune request names a port of the part and a target lane 0 to 47 (09 R158); no circuit names another. -/
def retune (port lane : Nat) (s : State) : State :=
  if port < Config.ports && lane < Config.lanes then retuneByState port lane s else s

/-- The lane one step from `lane` toward `target`. -/
def towards (lane target : Nat) : Nat := if lane < target then lane + 1 else lane - 1

/-- The line a step toward `target` pulses (09 R159). -/
def pulseFor (lane target : Nat) : Pulse := if lane < target then .up else .down

/-- 09 R159: one step of a port in STEPPING. -/
def stepOnce (port : Nat) (s : State) : State :=
  let p := portAt s port
  match p.present, p.target with
  | some lane, some target =>
    let moved := setPort port { p with lastPulse := some (pulseFor lane target), present := some (towards lane target) } s
    if towards lane target = target then reached port target moved else armStep port moved
  | _, _ => s

/-- 09 R156: one step of a port in HOMING, or its fault after sixty. -/
def homeOnce (port : Nat) (s : State) : State :=
  let p := portAt s port
  if p.homeCount < Config.homeSteps then
    armStep port (setPort port { p with lastPulse := some .down, homeCount := p.homeCount + 1 } s)
  else portFault port s

/-- The blank line of a port is off in IDLE alone (09 R154). -/
def Port.blank (p : Port) : Bool := p.state != .idle

end Sys2Proof.Machine
end

