-- ==== Sys2Proof/Machine/Planner.lean ====
section
/-! DEFINITION. Circuit records and groups (06 R86, R89), the wanted path (R88), and the Detour Planner (07), which keeps
nothing between questions. -/

namespace Sys2Proof.Machine

/-! ## Records -/

/-- The record of a circuit id. -/
def findCircuit (s : State) (id : Nat) : Option Circuit := s.circuits.find? fun c => c.id = id

/-- A record is written over the one with its id. -/
def putCircuit (c : Circuit) (s : State) : State :=
  s.setCircuits (s.circuits.map fun old => if old.id = c.id then c else old)

/-- An action on the record of an id, when there is one. -/
def onCircuit (id : Nat) (act : Circuit → State → State) (s : State) : State :=
  match findCircuit s id with
  | some c => act c s
  | none => s

/-- An action on each of some records in turn, each as it stands at its turn. -/
def onEach (ids : List Nat) (act : Circuit → State → State) (s : State) : State :=
  ids.foldl (fun t id => onCircuit id act t) s

/-- 01 R2: the detour direction; at a head it is also the detour side. -/
def Circuit.detourDir (c : Circuit) : Side := c.dir.other

/-- 01 R2: the working side of a Head or Tail record. -/
def Circuit.workSide (c : Circuit) : Side := if c.role = .tail then c.dir.other else c.dir

/-- 01 R2: the detour side of a Head or Tail record. -/
def Circuit.detourSide (c : Circuit) : Side := c.workSide.other

/-- The port of a Head or Tail record, which always has one (01 R10 check 6). -/
def Circuit.portNo (c : Circuit) : Nat := c.port.getD 0

/-- The spans of a circuit's working arc. -/
def workArc (s : State) (c : Circuit) : List Nat := arcSpans s.ring c.a c.z c.dir

/-- The spans of a circuit's detour arc (07 R110). -/
def detourArc (s : State) (c : Circuit) : List Nat := arcSpans s.ring c.a c.z c.detourDir

/-- The attempt that a head circuit's current tag names on a lane. -/
def Circuit.attempted (lane : Nat) (c : Circuit) : Attempted := ⟨c.id, c.a, c.z, c.detourDir, lane, c.tag⟩

/-- The states in which a head holds a detour or is on its way to one. -/
def CircuitState.away : CircuitState → Bool
  | .retuning => true
  | .detoured => true
  | .waitRestore => true
  | _ => false

/-! ## Groups (06 R89) -/

/-- The heads that are evaluated with a head: its bundle's members in ascending id, or itself alone. -/
def groupOf (s : State) (c : Circuit) : List Nat :=
  if c.bundle = 0 then [c.id]
  else (s.circuits.filter fun m => m.role = .head && m.bundle = c.bundle).map (·.id)

/-- The records of some ids. -/
def members (s : State) (ids : List Nat) : List Circuit := ids.filterMap (findCircuit s)

/-- A head stands at the place of its group: it is the group's lowest id (06 R90). -/
def leads (s : State) (c : Circuit) : Bool := c.role = .head && (groupOf s c).head? = some c.id

/-! ## The wanted path (R88, R89) -/

/-- 06 R88: a Cut stands at a circuit. -/
def cutStands (s : State) (c : Circuit) : Bool := arcFailed s (workArc s c)

/-- 06 R88: a Degrade stands at a circuit. -/
def degradeStands (s : State) (c : Circuit) : Bool :=
  ((workArc s c).any fun i => degradedOf s i) && !cutStands s c

/-- 06 R88, R89: the wanted path of a group: none for Working, the urgency for Detour. The strongest request standing at
any member decides. -/
def wanted (s : State) (group : List Nat) : Option Nat :=
  let cs := members s group
  if cs.any fun c => c.request = .pin then none
  else if cs.any (cutStands s) then some 3
  else if cs.any fun c => c.request = .forced then some 2
  else if cs.any (degradeStands s) then some 1
  else if cs.any fun c => c.request = .manual then some 0
  else none

/-- 06 R92: the key of a head circuit at an urgency. -/
def circuitKey (urgency : Nat) (c : Circuit) : Key := ⟨urgency, c.cls.rank, c.priority, c.id⟩

/-- The higher of two keys. -/
def Key.higher (y x : Key) : Key := if x.above y then x else y

/-- 06 R89: the highest key among a group's members. -/
def groupKey (s : State) (group : List Nat) (urgency : Nat) : Key :=
  match (members s group).map (circuitKey urgency) with
  | [] => ⟨urgency, 0, 0, 0⟩
  | k :: rest => rest.foldl Key.higher k

/-! ## The Detour Planner (07) -/

/-- 07 R114: the fibre delay of an arc in µs, rounded up. -/
def fibreDelay (lengths : List Nat) : Nat := (lengths.sum * 49 + 99) / 100

/-- The span lengths of an arc. -/
def arcLengths (s : State) (spans : List Nat) : List Nat := spans.map fun i => (s.plan.spans[i]?.map (·.length)).getD 0

/-- The span reach costs of an arc. -/
def arcCosts (s : State) (spans : List Nat) : List Nat := spans.map fun i => (s.plan.spans[i]?.map (·.cost)).getD 0

/-- 07 R115: the detour delay: the fibre delay and the penalty for each intermediate node. -/
def detourDelay (s : State) (c : Circuit) : Nat :=
  fibreDelay (arcLengths s (detourArc s c)) + ((detourArc s c).length - 1) * s.plan.transitPenalty

/-- 07 R116: the reach cost of the detour. -/
def detourCost (s : State) (c : Circuit) : Nat :=
  (arcCosts s (detourArc s c)).sum + ((detourArc s c).length - 1) * s.plan.passCost

/-- 07 R113: the first offending span in order of travel decides the reason. -/
def spanFault (s : State) (spans : List Nat) : Option Reason :=
  match spans.find? fun i => statusOf s i ≠ .usable || lockedOf s i with
  | none => none
  | some i => some (if statusOf s i = .usable then .spanLocked else .spanUnusable)

/-- 07 R111: checks 1 to 5, the first failure's reason. -/
def circuitFault (s : State) (c : Circuit) : Option Reason :=
  if segmentOf s c.a ≠ segmentOf s c.z then some .ringSplit
  else match spanFault s (detourArc s c) with
  | some r => some r
  | none =>
    if c.ceiling ≠ 0 && c.ceiling < detourDelay s c then some .delayCeiling
    else if c.allowance ≠ 0 && c.allowance < detourCost s c then some .reachAllowance
    else if (portAt s c.portNo).state = .fault then some .portFault
    else none

/-- 07 R118: every spare lane once, from the start lane upward and round. -/
def baseOrder (spareBase id : Nat) : List Nat :=
  let size := Config.lanes - spareBase
  (List.range size).map fun k => spareBase + (id + k) % size

/-- 07 R119: the head's entry would yield the lane to this key. -/
def laneStays (s : State) (side : Side) (key : Key) (lane : Nat) : Bool :=
  (laneEntry s side lane).any fun e => e.takeable key s.node

/-- 07 R120: the preplanned lane goes to the front when it is in the list. -/
def preplannedFirst (lane : Nat) (lanes : List Nat) : List Nat :=
  if lanes.contains lane then lane :: lanes.filter (· ≠ lane) else lanes

/-- 07 R118 to R120: the ordered lane list of a head at an urgency. -/
def laneList (s : State) (urgency : Nat) (c : Circuit) : List Nat :=
  let open' := (baseOrder s.plan.spareBase c.id).filter fun lane =>
    !c.excluded.contains lane && laneStays s c.detourSide (circuitKey urgency c) lane
  match c.preplanned with
  | some lane => if c.cls = .preplanned && c.count = 0 then preplannedFirst lane open' else open'
  | none => open'

/-- 07 R123: lanes assigned in ascending id, each member the first of its list that no member before it has taken. -/
def assignLanes (s : State) (urgency : Nat) : List Circuit → List Nat → Option (List (Nat × Nat))
  | [], _ => some []
  | c :: rest, taken =>
    match (laneList s urgency c).find? fun lane => !taken.contains lane with
    | none => none
    | some lane => (assignLanes s urgency rest (lane :: taken)).map ((c.id, lane) :: ·)

/-- An answer of the planner: one lane for each member, or the reason why not (07 R109). -/
inductive Answer where
  | feasible (lanes : List (Nat × Nat))
  | infeasible (reason : Reason)
deriving DecidableEq, Repr

/-- The planner is asked for a group: a circuit question for one head (R111), a bundle question for more (R122,
R123). -/
def ask (s : State) (group : List Nat) (urgency : Nat) : Answer :=
  let cs := members s group
  match cs.findSome? (circuitFault s) with
  | some r => .infeasible r
  | none =>
    match assignLanes s urgency cs [] with
    | some lanes => .feasible lanes
    | none => .infeasible (if cs.length ≤ 1 then .noFreeLane else .bundleFailed)

end Sys2Proof.Machine
end

