-- ==== Sys2Proof/Machine/Circuits.lean ====
section
/-! DEFINITION. The Circuit Logic (06, 10): state changes and their events, episodes and the claim queue, the outcomes of
attempts, reversion, detour failure, the evaluation of a group, and the tail's moves. A bundle of two or more heads acts as
one group; an independent head is a group of one. -/

namespace Sys2Proof.Machine

/-! ## State changes (R108) -/

/-- 06 R108: a head or tail record enters a state, its other fields changed by `f`; a change of state posts CircuitState,
and so does a STRANDED record that takes a new reason. A deadline of waiting to restore stays armed in WAIT_RESTORE alone (10
R165). -/
def moveTo (new : CircuitState) (reason : Reason) (f : Circuit → Circuit) (c : Circuit) (s : State) : State :=
  let strand := if new = .stranded then reason else .none
  let waiting := if new = .waitRestore then (f c).waitToRestore else none
  let moved := putCircuit { f c with state := new, reason := strand, waitToRestore := waiting } s
  if c.state = new && (new ≠ .stranded || c.reason = reason) then moved
  else post (.circuitState c.id new c.state reason) moved

/-- A record keeps its state and takes new field values. -/
def updateCircuit (f : Circuit → Circuit) (c : Circuit) (s : State) : State := putCircuit (f c) s

/-! ## The lane switch and the port, for a circuit -/

/-- Add/Drop to the circuit's port on a lane, to be told when it is in effect (06 R95, R104, 10 R167). -/
def addDrop (side : Side) (lane : Nat) (c : Circuit) (s : State) : State :=
  laneWrite side lane (.addDrop c.portNo) (some c.id) s

/-- An undo Block that removes Add/Drop to the circuit's port (09 R149). -/
def dropLane (side : Side) (lane : Nat) (c : Circuit) (s : State) : State :=
  laneUndo side lane (.addDrop c.portNo) none s

/-- The settings and the retune of a reversion that leaves `lane` (10 R167 steps 3 and 4, R168, R170). -/
def turnHome (lane : Nat) (c : Circuit) (s : State) : State :=
  retune c.portNo c.lane (dropLane c.detourSide lane c (addDrop c.workSide c.lane c s))

/-- The field changes of a record that starts to revert, leaving `lane`. -/
def Circuit.reverting (lane : Nat) (c : Circuit) : Circuit :=
  { c with detour := some lane, parked := none, claimTimeout := none, retuned := false, inEffect := false }

/-- The withdrawal of a head's current attempt or detour (08 R133); nothing when it holds no detour lane. -/
def withdrawOf (c : Circuit) (s : State) : State :=
  match c.detour with
  | some lane => withdraw (c.attempted lane) s
  | none => s

/-- 10 R168: reversion from a parked lane. -/
def revertParked (lane : Nat) (c : Circuit) (s : State) : State :=
  moveTo .reverting .none (Circuit.reverting lane) c (turnHome lane c s)

/-- 10 R167: reversion from the detour, of a head in RETUNING, DETOURED or WAIT_RESTORE. -/
def revertDetour (c : Circuit) (s : State) : State :=
  match c.detour with
  | some lane => moveTo .reverting .none (Circuit.reverting lane) c (turnHome lane c (withdrawOf c s))
  | none => s

/-- 06 R98, R101: a head off any detour goes to WORKING, or to REVERTING when a parked lane is present. -/
def goHome (c : Circuit) (s : State) : State :=
  match c.parked with
  | none => moveTo .working .none (fun c => { c with claimTimeout := none, detour := none }) c s
  | some lane => revertParked lane c s

/-! ## The claim queue (R92) -/

/-- A group leaves the claim queue. -/
def dequeue (group : List Nat) (s : State) : State := s.setQueue (s.queue.filter fun e => !group.contains e.lead)

/-- The queue with an entry at the place its key gives. -/
def insertEntry (e : QueueEntry) (q : List QueueEntry) : List QueueEntry :=
  q.takeWhile (fun x => x.key.above e.key) ++ e :: q.dropWhile fun x => x.key.above e.key

/-- 06 R92: a group joins the queue, or moves to the place its new key gives. -/
def enqueue (group : List Nat) (urgency : Nat) (s : State) : State :=
  let q := (dequeue group s).queue
  s.setQueue (insertEntry ⟨group.headD 0, groupKey s group urgency⟩ q)

/-! ## Stranding and episodes (R91, R101) -/

/-- 06 R101: a stored Manual request is withdrawn. -/
def withdrawManual (c : Circuit) (s : State) : State :=
  if c.request = .manual then post (.manualWithdrawn c.id) (putCircuit { c with request := .none } s) else s

/-- 06 R91, R101: every member goes to STRANDED with a reason. When Manual is the strongest request that wants a detour
it is withdrawn, and the group goes home. -/
def strand (group : List Nat) (reason : Reason) (s : State) : State :=
  let stranded := onEach group
    (moveTo .stranded reason fun c => { c with claimTimeout := none, detour := none }) (dequeue group s)
  if wanted stranded group = some 0 then onEach group goHome (onEach group withdrawManual stranded) else stranded

/-- A group enters the claim queue and QUEUED (06 R91, R92). -/
def enterQueue (group : List Nat) (urgency : Nat) (reason : Circuit → Reason) (s : State) : State :=
  onEach group
    (fun c => moveTo .queued (reason c) (fun c => { c with claimTimeout := none, detour := none, attempt := .open }) c)
    (enqueue group urgency s)

/-- 06 R91: the group's question decides between the claim queue and STRANDED. -/
def queueOrStrand (group : List Nat) (urgency : Nat) (s : State) : State :=
  if (members s group).any fun c => c.cls = .none then strand group .noRestoration s
  else match ask s group urgency with
  | .feasible _ => enterQueue group urgency (fun _ => .none) s
  | .infeasible reason => strand group reason s

/-- 06 R91: an episode starts: the attempt count is 0 and the excluded-lane set holds the lanes just lost alone. -/
def startEpisode (group : List Nat) (urgency : Nat) (lost : List (Nat × Nat)) (s : State) : State :=
  let lostBy (c : Circuit) : List Nat := (lost.filter fun p => p.1 = c.id).map (·.2)
  queueOrStrand group urgency
    (onEach group (fun c => updateCircuit (fun c => { c with count := 0, excluded := lostBy c }) c) s)

/-- What a group that has lost or abandoned its detour does, its lanes parked: a new episode when it wants Detour, home
otherwise (06 R99, R103, 10 R174). -/
def afterLoss (group : List Nat) (lost : List (Nat × Nat)) (s : State) : State :=
  match wanted s group with
  | some urgency => startEpisode group urgency lost s
  | none => onEach group goHome s

/-! ## Waiting to restore (10 section 10.1) -/

/-- 10 R164, R166: the conditions of WAIT_RESTORE, at every member. -/
def mayRestore (s : State) (group : List Nat) : Bool :=
  (wanted s group).isNone && (members s group).all fun c => c.revertive && c.request ≠ .pin && arcUsable s (workArc s c)

/-- 10 R164 to R166: a group in DETOURED enters WAIT_RESTORE when the conditions hold, and one in WAIT_RESTORE goes back to
DETOURED when they no longer do. -/
def restoreCheck (group : List Nat) (s : State) : State :=
  let cs := members s group
  if mayRestore s group then
    if cs.all fun c => c.state = .detoured then
      onEach group (moveTo .waitRestore .none fun c => { c with waitToRestore := arm s s.plan.waitToRestore }) s
    else s
  else
    onEach group (fun c =>
      if c.state = .waitRestore then moveTo .detoured .none id c else id) s

/-! ## Detour failure (10 section 10.5) -/

/-- The head gives its detour up and keeps its lane as the parked lane (06 R100, R103, 10 R174); the state it goes to next
disarms its wait-to-restore deadline. -/
def parkDetour (c : Circuit) (s : State) : State :=
  updateCircuit (fun c => { c with parked := c.detour, detour := none }) c (withdrawOf c s)

/-- 10 R174: the working arc of a group is all Usable. -/
def workUsable (s : State) (group : List Nat) : Bool := (members s group).all fun c => arcUsable s (workArc s c)

/-- 10 R174, its first half: a group whose detour fails reverts from it, or gives it up. -/
def leaveDetour (group : List Nat) (s : State) : State :=
  onEach group (if workUsable s group then revertDetour else parkDetour) s

/-- 10 R174: a detour failure of a group: a group that has given its detour up is evaluated. -/
def detourFailure (group : List Nat) (s : State) : State :=
  let left := leaveDetour group s
  if workUsable s group then left else afterLoss group [] left

/-! ## Evaluation (R90) -/

/-- A head leaves CLAIMING without an outcome: the claim timeout is disarmed and the attempt withdrawn (06 R98). -/
def abandonAttempt (c : Circuit) (s : State) : State :=
  updateCircuit (fun c => { c with claimTimeout := none, detour := none, attempt := .open }) c (withdrawOf c s)

/-- 06 R98: a group in QUEUED or CLAIMING is cancelled. -/
def cancel (group : List Nat) (s : State) : State :=
  onEach group
    (fun c s => if c.state = .claiming then onCircuit c.id goHome (abandonAttempt c s) else goHome c s) (dequeue group s)

/-- 06 R90: the evaluation of a group of heads, as its state requires. -/
def evaluate (group : List Nat) (s : State) : State :=
  let cs := members s group
  if cs.all fun c => c.state = .working || c.state = .stranded then
    match wanted s group with
    | some urgency => startEpisode group urgency [] s
    | none => onEach group (fun c => if c.state = .stranded then goHome c else id) s
  else if cs.all fun c => c.state = .queued then
    match wanted s group with
    | some urgency =>
      match ask s group urgency with
      | .feasible _ => enqueue group urgency s
      | .infeasible reason => strand group reason s
    | none => cancel group s
  else if cs.all fun c => c.state = .claiming then
    if (wanted s group).isNone then cancel group s else s
  else if cs.all fun c => c.state.away then
    if cs.any fun c => arcFailed s (detourArc s c) then detourFailure group s
    else if cs.any fun c => c.request = .pin then onEach group revertDetour s
    else restoreCheck group s
  else s

/-- The evaluation of every group whose lead satisfies `p`, in ascending id, each bundle at the place of its lowest-id
member (06 R90). -/
def evaluateAll (p : Circuit → Bool) (s : State) : State :=
  onEach (s.circuits.map (·.id))
    (fun c s => if leads s c && p c then evaluate (groupOf s c) s else s) s

/-! ## Outcomes of attempts (R95, R97, R102) -/

/-- 06 R95: a granted head writes its detour settings, retunes and enters RETUNING. -/
def takeGrant (c : Circuit) (s : State) : State :=
  match c.detour with
  | none => s
  | some lane =>
    let written := addDrop c.detourSide lane c (dropLane c.workSide c.lane c s)
    let unparked := match c.parked with
      | some old => if old = lane then written else dropLane c.detourSide old c written
      | none => written
    moveTo .retuning .none
      (fun c => { c with claimTimeout := none, parked := none, attempt := .open, retuned := false, inEffect := false })
      c (retune c.portNo lane unparked)

/-- 06 R95: after a Grant, a detour arc that already shows a Failed span is a detour failure at once. -/
def grantGroup (group : List Nat) (s : State) : State :=
  let granted := onEach group takeGrant s
  if (members granted group).any fun c => arcFailed granted (detourArc granted c) then detourFailure group granted
  else granted

/-- 06 R97: the reasons after which the circuit may try another lane. -/
def Reason.retryable : Reason → Bool
  | .laneBusy => true
  | .preempted => true
  | .timeout => true
  | _ => false

/-- A lane joins the excluded-lane set, which has no duplicates. -/
def exclude (lane : Nat) (set : List Nat) : List Nat := if set.contains lane then set else set ++ [lane]

/-- The reason and refusing node a member holds when its attempt has failed; this node's own code stands for an expiry and
for a fault of its own port (06 R97, R102). -/
def Attempt.refusal (own : Byte) : Attempt → Option (Reason × Byte)
  | .refused r n => some (r, n)
  | .timedOut => some (.timeout, own)
  | .portFaulted => some (.portFault, own)
  | .open => none
  | .granted => none

/-- The member's attempt has failed. -/
def Attempt.failed (a : Attempt) : Bool := (a.refusal 0).isSome

/-- The member's attempt still stands along the arc when the group's attempt fails: its Grant is held, its timeout has
expired, or its own port has faulted (06 R102). -/
def Attempt.stands : Attempt → Bool
  | .granted => true
  | .timedOut => true
  | .portFaulted => true
  | .open => false
  | .refused _ _ => false

/-- The reason a record's failed attempt shows; None for a member whose own attempt was granted (Log 18). -/
def Circuit.failReason (c : Circuit) : Reason :=
  match c.attempt.refusal 0 with
  | some (r, _) => r
  | none => .none

/-- 06 R97, R102: ClaimRefused for a member that was refused or timed out. -/
def postRefusal (c : Circuit) (s : State) : State :=
  match c.attempt.refusal s.nodeCode with
  | some (r, n) => post (.claimRefused c.id r n) s
  | none => s

/-- 06 R97: a refused member's lane joins its excluded-lane set and the attempt count goes up. -/
def Circuit.retried (c : Circuit) : Circuit :=
  { c with
    count := countUp Config.attempts c.count,
    excluded := match c.detour with
      | some lane => if c.attempt.failed then exclude lane c.excluded else c.excluded
      | none => c.excluded }

/-- The reason of a failed attempt after which the circuit strands (06 R97). -/
def Circuit.finalReason (c : Circuit) : Option Reason :=
  match c.attempt.refusal 0 with
  | some (r, _) => if r.retryable then none else some r
  | none => none

/-- The group's attempt has failed: it queues again and is evaluated, or strands (06 R97, R102, Log 17). -/
def failAttempt (group : List Nat) (s : State) : State :=
  let cs := members s group
  match cs.findSome? Circuit.finalReason with
  | some reason => strand group reason (onEach group (updateCircuit fun c => { c with attempt := .open }) s)
  | none =>
    let retried := onEach group (updateCircuit Circuit.retried) s
    if (members retried group).any fun c => Config.attempts ≤ c.count then
      strand group .attemptsExhausted (onEach group (updateCircuit fun c => { c with attempt := .open }) retried)
    else evaluate group (enterQueue group ((wanted retried group).getD 0) Circuit.failReason retried)

/-- 06 R95, R97, R102: every member's attempt has its outcome, and the group's attempt is resolved. -/
def resolve (group : List Nat) (s : State) : State :=
  let cs := members s group
  if cs.any fun c => c.attempt = .open then s
  else if cs.all fun c => c.attempt = .granted then grantGroup group s
  else
    let released := onEach group (fun c s => if c.attempt.stands then withdrawOf c s else s) s
    failAttempt group (onEach group postRefusal released)

/-- A member takes its outcome; the group is resolved when it was the last (06 R102). For an independent head the outcome
is the resolution (R95, R97). -/
def takeOutcome (outcome : Attempt) (c : Circuit) (s : State) : State :=
  resolve (groupOf s c) (putCircuit { c with attempt := outcome, claimTimeout := none } s)

/-- The Detour Claim Engine reports a Grant of a head's current attempt (06 R95). -/
def headGranted (id lane tag : Nat) (s : State) : State :=
  onCircuit id (fun c s =>
    if c.role = .head && c.state = .claiming && c.detour = some lane && c.tag = tag && c.attempt = .open then
      takeOutcome .granted c s
    else s) s

/-- The Detour Claim Engine reports a Refusal of a head's current attempt (06 R97). -/
def headRefused (id lane tag : Nat) (reason : Reason) (node : Byte) (s : State) : State :=
  onCircuit id (fun c s =>
    if c.role = .head && c.state = .claiming && c.detour = some lane && c.tag = tag && c.attempt = .open then
      takeOutcome (.refused reason node) c s
    else s) s

/-- 06 R99, R103: a head loses its Held entry by preemption: every other member abandons its detour, and the group goes on
with the lost lane excluded for the member that lost it. -/
def loseDetour (lane : Nat) (c : Circuit) (s : State) : State :=
  let group := groupOf s c
  let lost := updateCircuit (fun c => { c with parked := some lane, detour := none }) c s
  let parked := onEach (group.filter (· ≠ c.id)) parkDetour lost
  afterLoss group [(c.id, lane)] parked

/-- The Detour Claim Engine reports the loss of a head's Held entry (06 R99); a bundle member whose Grant is only held
takes it as its refusal (R102). -/
def headLost (id lane tag : Nat) (reason : Reason) (node : Byte) (s : State) : State :=
  onCircuit id (fun c s =>
    if c.role = .head && c.detour = some lane && c.tag = tag then
      if c.state.away then loseDetour lane c s
      else if c.state = .claiming && c.attempt = .granted then takeOutcome (.refused reason node) c s
      else s
    else s) s

/-! ## Port events (R100) -/

/-- 06 R100, R103: a fault of a head's port. In CLAIMING it is the member's outcome, in place of a held Grant too; a failed
attempt stays as it is (Log 29). -/
def headPortFault (c : Circuit) (s : State) : State :=
  let group := groupOf s c
  if c.state.away then strand group .portFault (onEach group parkDetour s)
  else match c.state with
  | .claiming => if c.attempt.failed then s else takeOutcome .portFaulted c s
  | .reverting => s
  | _ => evaluate group s

/-- 06 R100: the lane that a record calls for when its port has homed. -/
def Circuit.calledLane (c : Circuit) : Nat :=
  if c.state.away then c.detour.getD c.lane else c.parked.getD c.lane

/-- 06 R100: the homing of an owner's port is complete. -/
def ownerHomed (c : Circuit) (s : State) : State :=
  let asked := retune c.portNo c.calledLane s
  if c.role = .head then evaluate (groupOf asked c) asked else asked

/-- 06 R100: a fault of an owner's port; a tail keeps its state. -/
def ownerFault (c : Circuit) (s : State) : State := if c.role = .head then headPortFault c s else s

/-! ## Completions (R96, R104, 10 R169, R171) -/

/-- The lane whose retune and setting a record waits for. -/
def Circuit.awaited (c : Circuit) : Option (Side × Nat) :=
  match c.state with
  | .retuning => c.detour.map fun lane => (c.detourSide, lane)
  | .reverting => some (c.workSide, c.lane)
  | _ => none

/-- A record that has both completions moves on: RETUNING to DETOURED, where a head checks R164, and REVERTING to WORKING,
where a head is evaluated. A tail ends there. -/
def complete (c : Circuit) (s : State) : State :=
  let group := groupOf s c
  match c.state with
  | .retuning =>
    let there := moveTo .detoured .none id c s
    if c.role = .head then restoreCheck group there else there
  | .reverting =>
    let home := moveTo .working .none (fun c => { c with detour := none }) c s
    if c.role = .head && (members home group).all fun m => m.state = .working || m.state = .stranded then evaluate group home
    else home
  | _ => s

/-- A completion is noted, and acted on when it is the second (06 R96, 10 R169, R171). A completion that has been reported
stands, also past a fault of the port (Log 45). -/
def noteCompletion (f : Circuit → Circuit) (c : Circuit) (s : State) : State :=
  let noted := f c
  if noted.retuned && noted.inEffect then complete noted (putCircuit noted s) else putCircuit noted s

/-- The Tunable Port Controller reports a retune completion on a lane to the port's owner (06 R96). -/
def ownerRetuned (lane : Nat) (c : Circuit) (s : State) : State :=
  if c.awaited.any fun p => p.2 = lane then noteCompletion (fun c => { c with retuned := true }) c s else s

/-- The Lane Switch Driver reports a setting in effect to a requester (06 R96). -/
def settingInEffect (side : Side) (lane : Nat) (c : Circuit) (s : State) : State :=
  if c.awaited = some (side, lane) then noteCompletion (fun c => { c with inEffect := true }) c s else s

/-! ## The tail (R104, R105, 10 R170) -/

/-- 06 R104: a tail moves to a new detour lane. -/
def tailMove (lane tag head : Nat) (written : State) (c : Circuit) : State :=
  moveTo .retuning .none
    (fun c => { c with detour := some lane, tag := tag, headNode := head, retuned := false, inEffect := false }) c
    (retune c.portNo lane (addDrop c.detourSide lane c written))

/-- 06 R104: the Detour Claim Engine has granted a claim for a circuit this node tails. -/
def tailGranted (id lane tag head : Nat) (s : State) : State :=
  onCircuit id (fun c s =>
    if c.role = .tail then
      if c.state = .retuning || c.state = .detoured then
        if c.detour = some lane then updateCircuit (fun c => { c with tag := tag, headNode := head }) c s
        else tailMove lane tag head (dropLane c.detourSide (c.detour.getD lane) c s) c
      else tailMove lane tag head (dropLane c.workSide c.lane c s) c
    else s) s

/-- A tail that may revert: in RETUNING or DETOURED (06 R105). -/
def Circuit.mayRevert (c : Circuit) : Bool := c.role = .tail && (c.state = .retuning || c.state = .detoured)

/-- 10 R170: the tail's reversion. -/
def tailRevert (c : Circuit) (s : State) : State :=
  match c.detour with
  | some lane => moveTo .reverting .none (Circuit.reverting lane) c (turnHome lane c s)
  | none => s

/-- 06 R105: a Release at the tail, acted on when it matches the tail's detour lane and attempt tag. -/
def tailReleased (id lane tag : Nat) (s : State) : State :=
  onCircuit id (fun c s =>
    if c.mayRevert && c.detour = some lane && c.tag = tag then tailRevert c s else s) s

/-- The arc of a tail's detour: from A to Z against the working direction (07 R110). -/
def tailFailed (failed : List Nat) (s : State) (c : Circuit) : Bool :=
  c.mayRevert && (detourArc s c).any fun i => failed.contains i

/-! ## Changes from the Ring View (R90, 10 R173 to R178) -/

/-- 06 R90: a change that calls for a head's evaluation. -/
def SpanChange.concerns (s : State) (c : Circuit) : SpanChange → Bool
  | .status i _ _ => (workArc s c).contains i || (detourArc s c).contains i
  | .locked i _ => (detourArc s c).contains i
  | .degraded i _ => (workArc s c).contains i

/-- The span that a change brings to Failed. -/
def SpanChange.failedSpan : SpanChange → Option Nat
  | .status i _ .failed => some i
  | _ => none

/-- 10 R175: the restart of a node on an arc: an intermediate node or the tail of a detour. -/
def restartBreaks (s : State) (node : Nat) (c : Circuit) : Bool :=
  c.z = node || (arcInner s.ring c.a c.z c.detourDir).contains node

/-- 10 R176: the evaluation of a group whose attempt has been ended: it goes on with its attempt count and excluded-lane set,
or home. -/
def afterEnd (group : List Nat) (s : State) : State :=
  match wanted s group with
  | some urgency => queueOrStrand group urgency s
  | none => onEach group goHome s

/-- 10 R175, R176: a hand-off is a detour failure of a head that holds a detour: the restart of a node on its detour arc, or
this node's second Restart Notice. -/
def CclHand.breaks (s : State) (c : Circuit) (h : CclHand) : Bool :=
  c.state.away && (h.second || h.restart.any fun node => restartBreaks s node c)

/-- 06 R90: a hand-off calls for a head's evaluation: a change that concerns it, or a new segment map. -/
def CclHand.concerns (s : State) (c : Circuit) (h : CclHand) : Bool :=
  h.map.isSome || h.changes.any (SpanChange.concerns s c)

/-- 06 R105: a hand-off reverts a tail: a span of its detour arc has failed, or its head node has restarted. -/
def CclHand.reverts (s : State) (c : Circuit) (h : CclHand) : Bool :=
  tailFailed (h.changes.filterMap SpanChange.failedSpan) s c || (c.mayRevert && h.restart = some c.headNode)

/-- 10 R176: a hand-off ends the attempt of a head: this node's second Restart Notice, in CLAIMING. -/
def CclHand.ends (c : Circuit) (h : CclHand) : Bool := h.second && c.state = .claiming

/-- What a circuit takes from a hand-off before any is evaluated: the head's detour fails (10 R174, R175) or its attempt is
withdrawn (R176), and the tail reverts (06 R105). -/
def takeRestarts (h : CclHand) (c : Circuit) (s : State) : State :=
  if leads s c then
    if h.breaks s c then leaveDetour (groupOf s c) s
    else if h.ends c then onEach (groupOf s c) abandonAttempt s
    else s
  else if h.reverts s c then tailRevert c s
  else s

/-- The evaluation of a head that a hand-off concerns: by R174 when it has given its detour up, by R176 when its attempt has
been ended, and else by 06 R90. One that has reverted is in REVERTING, which an evaluation leaves. -/
def evaluateHand (h : CclHand) (c : Circuit) (s : State) : State :=
  let group := groupOf s c
  if leads s c then
    if h.breaks s c then (if workUsable s group then s else afterLoss group [] s)
    else if h.ends c then afterEnd group s
    else if h.concerns s c then evaluate group s
    else s
  else s

/-- 10 R177: the hand-offs of one NRV event, taken as one event: in ascending id each circuit takes what it takes of them, and
after that, in ascending id again, each circuit concerned is evaluated once. -/
def takeHand (h : CclHand) (s : State) : State :=
  let ids := s.circuits.map (·.id)
  onEach ids (evaluateHand h) (onEach ids (takeRestarts h) s)

/-! ## Deadlines (R97, R165, R166) -/

/-- 06 R97, R102: the claim timeout of a head expires. An independent head's attempt is withdrawn; a bundle's member holds
Timeout until the resolution. -/
def claimTimedOut (c : Circuit) (s : State) : State := takeOutcome .timedOut c s

/-! ## Operator requests and classes (R87, R106, R107) -/

/-- 06 R106: a request is stored and the circuit evaluated. -/
def storeRequest (r : Request) (c : Circuit) (s : State) : State :=
  evaluate (groupOf s c) (putCircuit { c with request := r } s)

/-- 06 R106: Pin, which a head always takes. -/
def requestPin (c : Circuit) (s : State) : Status × State :=
  if c.role = .head then (.done, storeRequest .pin c s) else (.notHead, s)

/-- 06 R106: Clear; with no request stored it changes nothing. -/
def requestClear (c : Circuit) (s : State) : Status × State :=
  if c.role ≠ .head then (.notHead, s)
  else (.done, if c.request = .none then s else storeRequest .none c s)

/-- 06 R106: Forced and Manual, refused at class None. -/
def requestDetour (r : Request) (c : Circuit) (s : State) : Status × State :=
  if c.role ≠ .head then (.notHead, s)
  else if c.cls = .none then (.notRestorable, s)
  else (.done, storeRequest r c s)

/-- 06 R107: the working arc is all Usable with no Degraded flag. -/
def workingSound (s : State) (c : Circuit) : Bool :=
  arcUsable s (workArc s c) && !(workArc s c).any fun i => degradedOf s i

/-- A stored Forced or Manual request is removed (06 R87, R107). -/
def Circuit.unforced (c : Circuit) : Circuit :=
  { c with request := if c.request = .forced || c.request = .manual then .none else c.request }

/-- 06 R107: Return. -/
def requestReturn (c : Circuit) (s : State) : Status × State :=
  if c.role ≠ .head then (.notHead, s)
  else if c.state ≠ .detoured && c.state ≠ .waitRestore then (.notDetoured, s)
  else if !workingSound s c then (.workingUnusable, s)
  else
    let group := groupOf s c
    (.done, onEach group revertDetour (onEach group (updateCircuit Circuit.unforced) s))

/-- 06 R87: the step that brings a head back from its own state. -/
def bringBack (c : Circuit) (s : State) : State :=
  if c.state.away then revertDetour c s
  else match c.state with
  | .queued => goHome c s
  | .stranded => goHome c s
  | .claiming => onCircuit c.id goHome (abandonAttempt c s)
  | _ => s

/-- 06 R87: a head's class has been lowered to None. -/
def loweredToNone (c : Circuit) (s : State) : State :=
  let group := groupOf s c
  let cleared := putCircuit c.unforced s
  let back := if c.state = .working then cleared else onEach group bringBack (dequeue group cleared)
  evaluate group back

/-- 06 R87: the consequences of a head's lowered class, written already. -/
def classLowered (c : Circuit) (s : State) : State :=
  if c.cls = .none then loweredToNone c s
  else if c.state = .queued then evaluate (groupOf s c) s
  else s

end Sys2Proof.Machine
end

