-- ==== Sys2Proof/Machine/Claims.lean ====
section
/-! DEFINITION. The upper half of the Detour Claim Engine (08): taking and bumping, the head's, transit's and tail's
handling of the four claim-family frames, expiry, self-cleaning and restarts, and the commands of the block that need no
service of the claim queue of their own (Machine/Serve.lean serves it). -/

namespace Sys2Proof.Machine

/-! ## Taking and bumping (R129 to R131) -/

/-- 08 R131: claim `x` is bumped at this node. Its entries are freed; its head is told by a Refusal, or at once when this
node is the head, by the state its entry had (Log 16); its tail is told by a Release, or at once (R142). -/
def bump (lane : Nat) (x : Claim) (s : State) : State :=
  let m := x.attempted lane
  let wasHeld := (laneEntry s x.dir lane).any fun e => e.isHeld
  let freed := freeAttempt lane x.id x.head x.tag s
  let told :=
    if x.head = s.node then
      if wasHeld then headLost x.id lane x.tag .preempted s.nodeCode freed
      else headRefused x.id lane x.tag .preempted s.nodeCode freed
    else sendRefusal x.dir.other m .preempted freed
  if x.tail = s.node then tailReleased x.id lane x.tag told else sendRelease m told

/-- What an entry's taking by claim `y` does first: a claim of another circuit is bumped (R131); an earlier attempt of the
same circuit and head is not, and its Pass is undone at a transit (R130). -/
def clearFor (side : Side) (lane : Nat) (y : Claim) (s : State) : State :=
  match laneEntry s side lane with
  | some (.held x) =>
    if x.id = y.id && x.head = y.head then (if isTransit s x then laneUndo side lane .pass none s else s) else bump lane x s
  | some (.pending x _) => if x.id = y.id && x.head = y.head then s else bump lane x s
  | _ => s

/-- The value of the pending deadline: twice the plan's claim timeout from now (08 R132, R137). -/
def pendingUntil (s : State) : Nat := min (s.clock + 2 * s.plan.claimTimeout) Config.maxTick

/-- The claim that an attempt and a key describe. -/
def Attempted.claim (key : Key) (m : Attempted) : Claim :=
  ⟨m.id, m.head, m.tail, m.dir, m.tag, key.urgency, key.rank, key.priority⟩

/-! ## The head (R132, R134, R135) -/

/-- 08 R132, R143: the Circuit Logic hands a claim down: refused at once, or marked Pending and sent. -/
def headClaim (lane : Nat) (key : Key) (c : Circuit) (s : State) : State :=
  let m := c.attempted lane
  let refuse (reason : Reason) (s : State) : State := headRefused c.id lane c.tag reason s.nodeCode s
  match laneEntry s m.dir lane with
  | none => refuse .laneBusy s
  | some .blocked => refuse .spanLocked s
  | some e =>
    if e.takeable key c.a then
      let marked := setLane m.dir lane (.pending (m.claim key) (pendingUntil s)) (clearFor m.dir lane (m.claim key) s)
      match offerClaim m.dir (claimFrame m key (hopsToTail s m)) marked with
      | some sent => sent
      | none => refuse .linkDown (freeLane m.dir lane marked)
    else refuse .laneBusy s

/-- 08 R134: a Grant at its head. -/
def grantAtHead (m : Attempted) (s : State) : State :=
  match laneEntry s m.dir m.lane with
  | some (.pending c _) =>
    if c.matches m.id m.head m.tag then headGranted m.id m.lane m.tag (setLane m.dir m.lane (.held c) s)
    else sendRelease m s
  | some (.held c) => if c.matches m.id m.head m.tag then s else sendRelease m s
  | _ => sendRelease m s

/-- 08 R135: a Refusal at its head. -/
def refusalAtHead (m : Attempted) (reason : Reason) (node : Byte) (s : State) : State :=
  match laneEntry s m.dir m.lane with
  | some (.pending c _) =>
    if c.matches m.id m.head m.tag then headRefused m.id m.lane m.tag reason node (freeLane m.dir m.lane s) else s
  | some (.held c) =>
    if c.matches m.id m.head m.tag then headLost m.id m.lane m.tag reason node (freeLane m.dir m.lane s) else s
  | _ => s

/-! ## The transit (R136 to R140) -/

/-- The arc of a claim (08 R136 check 3). -/
def claimArc (s : State) (m : Attempted) : List Nat := arcSpans s.ring m.head m.tail m.dir

/-- An entry is Blocked. -/
def isBlocked (s : State) (side : Side) (lane : Nat) : Bool := laneEntry s side lane = some .blocked

/-- An entry is takeable by a claim. -/
def mayTake (s : State) (side : Side) (lane : Nat) (key : Key) (head : Nat) : Bool :=
  (laneEntry s side lane).any fun e => e.takeable key head

/-- 08 R136: the checks of a claim at a transit, in order, with the reduced budget. -/
def transitFault (s : State) (arrival : Side) (m : Attempted) (key : Key) (hops : Nat) : Option Reason :=
  if !isSpare s m.lane then some .laneNotSpare
  else if hops = 0 then some .hopExhausted
  else if arcFailed s (claimArc s m) then some .spanUnusable
  else if statusOf s (s.sideSpan m.dir) ≠ .usable then some .spanUnusable
  else if lockedOf s (s.sideSpan m.dir) then some .spanLocked
  else if isBlocked s arrival m.lane || isBlocked s m.dir m.lane then some .spanLocked
  else if mayTake s arrival m.lane key m.head && mayTake s m.dir m.lane key m.head then none
  else some .laneBusy

/-- 08 R137: a claim that passes is marked on both entries and forwarded; handed back, both are freed and the claim is
refused with LinkDown (R143). What stood on the two is cleared on the arrival side first (Log 40). -/
def reserve (arrival : Side) (m : Attempted) (key : Key) (hops : Nat) (f : Frame) (s : State) : State :=
  let y := m.claim key
  let cleared := clearFor m.dir m.lane y (clearFor arrival m.lane y s)
  let entry : LaneEntry := .pending y (pendingUntil s)
  let marked := setLane m.dir m.lane entry (setLane arrival m.lane entry cleared)
  match offerClaim m.dir (f.withHops hops) marked with
  | some sent => sent
  | none => sendRefusal arrival m .linkDown (freeAttempt m.lane m.id m.head m.tag marked)

/-- 08 R136, R137: a Detour Claim at a transit. -/
def claimAtTransit (arrival : Side) (m : Attempted) (key : Key) (hops : Nat) (f : Frame) (s : State) : State :=
  match transitFault s arrival m key hops with
  | some reason => sendRefusal arrival m reason s
  | none => reserve arrival m key hops f s

/-- The claim of an entry that is Pending for an attempt. -/
def pendingFor (s : State) (side : Side) (m : Attempted) : Option Claim :=
  match laneEntry s side m.lane with
  | some (.pending c _) => if c.matches m.id m.head m.tag then some c else none
  | _ => none

/-- 08 R138, R143: a Grant at a transit. -/
def grantAtTransit (m : Attempted) (hops : Nat) (f : Frame) (s : State) : State :=
  if hops = 0 then s
  else match pendingFor s .east m, pendingFor s .west m with
  | some e, some w =>
    let held := lanePass m.lane (setLane .west m.lane (.held w) (setLane .east m.lane (.held e) s))
    match offerClaim m.dir.other (f.withHops hops) held with
    | some sent => sent
    | none => sendRelease m (freeAttempt m.lane m.id m.head m.tag held)
  | _, _ => s

/-- A frame goes on to a link while its reduced budget is above 0 (08 R128, R139, R140). -/
def forward (side : Side) (hops : Nat) (f : Frame) (s : State) : State :=
  if hops = 0 then s else offerOrDrop side (f.withHops hops) s

/-- 08 R139: a Refusal at a transit. -/
def refusalAtTransit (m : Attempted) (hops : Nat) (f : Frame) (s : State) : State :=
  forward m.dir.other hops f (freeAttempt m.lane m.id m.head m.tag s)

/-- 08 R140: a Release at a transit. -/
def releaseAtTransit (m : Attempted) (hops : Nat) (f : Frame) (s : State) : State :=
  forward m.dir hops f (freeAttempt m.lane m.id m.head m.tag s)

/-! ## The tail (R141, R142) -/

/-- 08 R141 check 2: the Tail record of a claim. -/
def tailRecord (s : State) (arrival : Side) (m : Attempted) : Option Circuit :=
  s.circuits.find? fun c => c.id = m.id && c.role = .tail && c.headNode = m.head && c.detourSide = arrival

/-- 08 R141: the checks of a claim at its tail, in order. -/
def tailFault (s : State) (arrival : Side) (m : Attempted) (key : Key) : Option Reason :=
  if !isSpare s m.lane then some .laneNotSpare
  else match tailRecord s arrival m with
  | none => some .unknownCircuit
  | some c =>
    if arcFailed s (claimArc s m) then some .spanUnusable
    else if (portAt s c.portNo).state = .fault then some .portFault
    else if isBlocked s arrival m.lane then some .spanLocked
    else if mayTake s arrival m.lane key m.head then none
    else some .laneBusy

/-- Every side and spare lane, East first, ascending. -/
def mapPlaces (s : State) : List (Side × Nat) :=
  let lanes := (List.range (Config.lanes - s.plan.spareBase)).map (s.plan.spareBase + ·)
  lanes.map (fun lane => (Side.east, lane)) ++ lanes.map fun lane => (Side.west, lane)

/-- 08 R141 step 1: the entries of the same circuit and head on other lanes are freed, with nothing written. -/
def freeEarlier (m : Attempted) (s : State) : State :=
  (mapPlaces s).foldl (fun t (p : Side × Nat) =>
    if p.2 ≠ m.lane && (claimAt t p.1 p.2).any fun c => c.id = m.id && c.head = m.head then freeLane p.1 p.2 t else t) s

/-- 08 R142: a Release at its tail, sent or from a bump here. -/
def releaseAtTail (m : Attempted) (s : State) : State :=
  tailReleased m.id m.lane m.tag (freeAttempt m.lane m.id m.head m.tag s)

/-- 08 R141, R143: a Detour Claim at its tail. -/
def claimAtTail (arrival : Side) (m : Attempted) (key : Key) (s : State) : State :=
  match tailFault s arrival m key with
  | some reason => sendRefusal arrival m reason s
  | none =>
    let cleared := clearFor arrival m.lane (m.claim key) (freeEarlier m s)
    let granted := tailGranted m.id m.lane m.tag m.head (setLane arrival m.lane (.held (m.claim key)) cleared)
    match offerClaim arrival (plainFrame .grant m (hopsToHead s m)) granted with
    | some sent => sent
    | none => releaseAtTail m granted

/-! ## Taking a frame (R128, 12 R197) -/

/-- The hop budget of a frame as taken, from the last byte of its body (12.2, 08 R128). -/
def frameHops (f : Frame) : Nat := takenHops (byteAt f.body (f.body.length - 1))

/-- 08 R128, R136, R141: a Detour Claim taken from a link. -/
def takeClaim (arrival : Side) (f : Frame) (s : State) : State :=
  match decodeAttempted s f.body with
  | none => s
  | some m =>
    match decodeKey m f.body with
    | none => s
    | some key =>
      if s.pld.mode = .listen then sendRefusal arrival m .nodeUnplanned s
      else if m.head = s.node then s
      else if m.tail = s.node then claimAtTail arrival m key s
      else claimAtTransit arrival m key (frameHops f - 1) f s

/-- This node is a claim-family frame's end or start; without an identity it is neither (08 R128). -/
def atNode (s : State) (node : Nat) : Bool := s.ident.any fun i => i.node = node

/-- 08 R128, R134, R138: a Grant taken from a link. In LISTEN Grants are discarded. -/
def takeGrantFrame (f : Frame) (s : State) : State :=
  match decodeAttempted s f.body with
  | none => s
  | some m =>
    if s.pld.mode = .listen then s
    else if m.tail = s.node then s
    else if m.head = s.node then grantAtHead m s
    else grantAtTransit m (frameHops f - 1) f s

/-- 08 R128, R135, R139: a Refusal taken from a link. In LISTEN it is forwarded with nothing freed. -/
def takeRefusal (arrival : Side) (f : Frame) (s : State) : State :=
  match decodeAttempted s f.body, Reason.ofCode (field1 f.body 7) with
  | some m, some reason =>
    if atNode s m.tail then s
    else if s.pld.mode = .listen then forward arrival.other (frameHops f - 1) f s
    else if m.head = s.node then refusalAtHead m reason (byteAt f.body 8) s
    else refusalAtTransit m (frameHops f - 1) f s
  | _, _ => s

/-- 08 R128, R140, R142: a Release taken from a link. In LISTEN it is forwarded with nothing freed. -/
def takeRelease (arrival : Side) (f : Frame) (s : State) : State :=
  match decodeAttempted s f.body with
  | none => s
  | some m =>
    if atNode s m.head then s
    else if s.pld.mode = .listen then forward arrival.other (frameHops f - 1) f s
    else if m.tail = s.node then releaseAtTail m s
    else releaseAtTransit m (frameHops f - 1) f s

/-! ## Expiry, broken arcs, restarts, locking (R126, R144 to R146) -/

/-- 08 R144: the pending deadline of an entry expires. -/
def pendingExpired (lane : Nat) (c : Claim) (s : State) : State :=
  let freed := freeAttempt lane c.id c.head c.tag s
  if c.head = s.node then headRefused c.id lane c.tag .timeout s.nodeCode freed else freed

/-- 08 R145: the arc of an entry's claim holds a span, at a transit or the tail. -/
def onBrokenArc (s : State) (span : Nat) (c : Claim) : Bool :=
  c.head ≠ s.node && (arcSpans s.ring c.head c.tail c.dir).contains span

/-- The attempts of the entries that satisfy `p` are freed at this node (08 R145, R146), in the order of the map's places; no
rule orders them (Log 40). -/
def freeWhere (p : State → Claim → Bool) (s : State) : State :=
  (mapPlaces s).foldl (fun t (place : Side × Nat) =>
    match claimAt t place.1 place.2 with
    | some c => if p t c then freeAttempt place.2 c.id c.head c.tag t else t
    | none => t) s

/-- 08 R145: a span has become Failed. -/
def cleanSpan (span : Nat) (s : State) : State := freeWhere (fun t c => onBrokenArc t span c) s

/-- 08 R146: a node has restarted. -/
def cleanHead (node : Nat) (s : State) : State := freeWhere (fun _ c => c.head = node) s

/-- 08 R126: an entry after its side's span has been locked or unlocked. -/
def LaneEntry.afterLock (locked : Bool) : LaneEntry → LaneEntry
  | .free => if locked then .blocked else .free
  | .blocked => if locked then .blocked else .free
  | .pending c d => .pending c d
  | .held c => .held c

/-- 08 R126: Locked of a span has changed; the entries of a side that faces it follow. -/
def lockSpan (span : Nat) (locked : Bool) (s : State) : State :=
  let onSide (side : Side) (s : State) : State :=
    if s.ident.isSome && s.sideSpan side = span then
      s.setLanes side ((s.lanes.get side).map (LaneEntry.afterLock locked))
    else s
  onSide .west (onSide .east s)

end Sys2Proof.Machine
end

