-- ==== Sys2Proof/Machine/Serve.lean ====
section
/-! DEFINITION. The claim queue's service (06 R93, R94, R102), the reports between blocks that a step still has to take
(Log 5), and the commands of the Circuit Logic, the Detour Claim Engine and the Tunable Port Controller. -/

namespace Sys2Proof.Machine

/-! ## Service of the claim queue (R93) -/

/-- 06 R93: the window slots in use are the head circuits in CLAIMING. -/
def slotsUsed (s : State) : Nat := (s.circuits.filter fun c => c.role = .head && c.state = .claiming).length

/-- 06 R94 steps 2 to 5: one member's attempt on a lane. -/
def startMember (urgency lane : Nat) (c : Circuit) (s : State) : State :=
  onCircuit c.id (fun c => headClaim lane (circuitKey urgency c) c)
    (moveTo .claiming .none
      (fun c => { c with tag := (c.tag + 1) % 8, detour := some lane, claimTimeout := arm s s.plan.claimTimeout }) c s)

/-- 06 R94, R102: the front entry's attempt: the planner is asked again, and each member claims its lane in ascending id. -/
def startAttempt (group : List Nat) (urgency : Nat) (s : State) : State :=
  match ask s group urgency with
  | .infeasible reason => strand group reason s
  | .feasible lanes =>
    lanes.foldl (fun t (p : Nat × Nat) => onCircuit p.1 (startMember urgency p.2) t) (dequeue group s)

/-- 06 R93: the front entry starts when the free slots are enough for its members; otherwise nothing does. -/
def serveOnce (s : State) : Option State :=
  match s.queue with
  | [] => none
  | e :: rest =>
    match findCircuit s e.lead with
    | none => some (s.setQueue rest)
    | some c =>
      let group := groupOf s c
      if slotsUsed s + group.length ≤ Config.window then some (startAttempt group e.key.urgency s) else none

/-! ## Reports inside a step (Log 5) -/

/-- An action of a port's owner, when the port has one. -/
def onOwner (port : Nat) (act : Circuit → State → State) (s : State) : State :=
  match (portAt s port).owner with
  | some id => onCircuit id act s
  | none => s

/-- A report that a block has made to another is taken. -/
def takeWork (w : Work) (s : State) : State :=
  match w with
  | .retuned port lane => onOwner port (ownerRetuned lane) s
  | .faulted port => onOwner port ownerFault s
  | .homed port => onOwner port ownerHomed s
  | .faultAtStart port => if (portAt s port).state = .homing then portFault port s else s
  | .homeAtStart port => if (portAt s port).state = .homing then homed port s else s
  | .undoDropped side lane id => onCircuit id (settingInEffect side lane) s

/-- One round: the oldest report, else the front of the claim queue. -/
def settleOnce (s : State) : Option State :=
  match s.work with
  | w :: rest => some (takeWork w (s.setWork rest))
  | [] => serveOnce s

/-- Rounds until nothing is left to do. -/
def settleFor : Nat → State → State
  | 0, s => s
  | n + 1, s =>
    match settleOnce s with
    | none => s
    | some s' => settleFor n s'

/-- The end of an event: every report inside the step is taken and the claim queue is served (06 R90, R93). -/
def settle (s : State) : State := settleFor Config.rounds s

/-! ## Commands of the Circuit Logic -/

/-- The oldest hand-off is taken when it is one of the command's own (Log 4). -/
def takeOldest (mine : CclHand → Bool) (s : State) : State :=
  match s.toCcl with
  | h :: rest => if s.running && mine h then settle (takeHand h (s.setToCcl rest)) else s
  | [] => s

/-- CCL_SPAN_CHANGE (06 R90): a hand-off of changes alone. -/
def execCclSpanChange (s : State) : Host.Outcome State Fault Refusal :=
  .next (takeOldest (fun h => h.restart.isNone && !h.second && h.map.isNone) s)

/-- CCL_SEGMENT_MAP (10 R177): a hand-off that brings a new segment map, with the changes that came with it. -/
def execCclSegmentMap (s : State) : Host.Outcome State Fault Refusal :=
  .next (takeOldest (fun h => h.restart.isNone && !h.second && h.map.isSome) s)

/-- CCL_RESTART (10 R175): a hand-off of the restart of a node, with what came with it. -/
def execCclRestart (s : State) : Host.Outcome State Fault Refusal :=
  .next (takeOldest (fun h => h.restart.isSome) s)

/-- CCL_SECOND_RESTART (10 R176): a hand-off of this node's second Restart Notice, with what came with it. -/
def execCclSecondRestart (s : State) : Host.Outcome State Fault Refusal :=
  .next (takeOldest (fun h => h.restart.isNone && h.second) s)

/-- CLAIM_TIMEOUT_EXPIRY (06 R97, R102) -/
def execClaimTimeoutExpiry (id : Nat) (s : State) : Host.Outcome State Fault Refusal :=
  .next <|
    match findCircuit s id with
    | some c => if s.running && c.state = .claiming && due s c.claimTimeout then settle (claimTimedOut c s) else s
    | none => s

/-- WAIT_TO_RESTORE_EXPIRY (10 R165, R166): the whole group reverts. -/
def execWaitToRestoreExpiry (id : Nat) (s : State) : Host.Outcome State Fault Refusal :=
  .next <|
    match findCircuit s id with
    | some c =>
      if s.running && c.state = .waitRestore && due s c.waitToRestore then settle (onEach (groupOf s c) revertDetour s)
      else s
    | none => s

/-! ## Commands of the Detour Claim Engine -/

/-- DCE_LOCKED_CHANGE (08 R126) -/
def execDceLockedChange (s : State) : Host.Outcome State Fault Refusal :=
  .next <|
    match s.toDce with
    | .locked span set :: rest => if s.running then lockSpan span set (s.setToDce rest) else s
    | _ => s

/-- SELF_CLEAN (08 R145): the oldest hand-off, when it is a change of derived status; only a change to Failed frees
anything. -/
def execSelfClean (s : State) : Host.Outcome State Fault Refusal :=
  .next <|
    match s.toDce with
    | .status span _ new :: rest =>
      if s.running then (if new = .failed then cleanSpan span (s.setToDce rest) else s.setToDce rest) else s
    | _ => s

/-- DCE_RESTART (08 R146) -/
def execDceRestart (s : State) : Host.Outcome State Fault Refusal :=
  .next <|
    match s.toDce with
    | .restart node :: rest => if s.running then cleanHead node (s.setToDce rest) else s
    | _ => s

/-- DETOUR_CLAIM (08 R136) -/
def execDetourClaim (side : Side) (s : State) : Host.Outcome State Fault Refusal :=
  .next (takeFrame FrameKind.isClaimFamily .detourClaim side (fun f s => settle (takeClaim side f s)) s)

/-- GRANT (08 R134) -/
def execGrant (side : Side) (s : State) : Host.Outcome State Fault Refusal :=
  .next (takeFrame FrameKind.isClaimFamily .grant side (fun f s => settle (takeGrantFrame f s)) s)

/-- REFUSAL (08 R135) -/
def execRefusal (side : Side) (s : State) : Host.Outcome State Fault Refusal :=
  .next (takeFrame FrameKind.isClaimFamily .refusal side (fun f s => settle (takeRefusal side f s)) s)

/-- RELEASE (08 R140) -/
def execRelease (side : Side) (s : State) : Host.Outcome State Fault Refusal :=
  .next (takeFrame FrameKind.isClaimFamily .release side (fun f s => settle (takeRelease side f s)) s)

/-- PENDING_EXPIRY (08 R144) -/
def execPendingExpiry (side : Side) (lane : Nat) (s : State) : Host.Outcome State Fault Refusal :=
  .next <|
    match laneEntry s side lane with
    | some (.pending c deadline) =>
      if s.running && due s (some deadline) then settle (pendingExpired lane c s) else s
    | _ => s

/-! ## Commands of the Lane Switch Driver and the Tunable Port Controller that reach a circuit -/

/-- 09 R152: a setting comes into effect and its requesters are told in the order they joined. -/
def settingSettled (side : Side) (lane : Nat) (s : State) : State :=
  let r := s.lsd.record side lane
  onEach r.requesters (settingInEffect side lane) (s.setLsd (s.lsd.setRecord side lane r.settled))

/-- SETTLE_EXPIRY (09 R152) -/
def execSettleExpiry (side : Side) (lane : Nat) (s : State) : Host.Outcome State Fault Refusal :=
  .next (if s.running && due s (s.lsd.record side lane).settle then settle (settingSettled side lane s) else s)

/-- HOMING_STEP_EXPIRY (09 R156) -/
def execHomingStepExpiry (port : Nat) (s : State) : Host.Outcome State Fault Refusal :=
  .next <|
    if s.running && (portAt s port).state = .homing && due s (stepDeadline s port) then settle (homeOnce port s) else s

/-- STEP_EXPIRY (09 R159) -/
def execStepExpiry (port : Nat) (s : State) : Host.Outcome State Fault Refusal :=
  .next <|
    if s.running && (portAt s port).state = .stepping && due s (stepDeadline s port) then settle (stepOnce port s) else s

/-- HOME_INDICATION (09 R156): the level is a pin; its arrival completes a homing under way and is otherwise not acted
on. -/
def execHomeIndication (port : Nat) (asserted : Bool) (s : State) : Host.Outcome State Fault Refusal :=
  .next <|
    let p := portAt s port
    let seen := setPort port { p with homeInd := asserted } s
    if s.inRun && asserted && !p.homeInd && p.state = .homing then settle (homed port seen) else seen

/-- PORT_FAULT_ONSET (09 R161): the level is a pin; outside RUN it is recorded alone (Log 14). -/
def execPortFaultOnset (port : Nat) (s : State) : Host.Outcome State Fault Refusal :=
  .next <|
    let p := portAt s port
    let seen := setPort port { p with faultInd := true } s
    if s.inRun && port < Config.ports && !p.faultInd && p.state != .fault then settle (portFault port seen) else seen

/-- PORT_FAULT_END (09 R161): the port's state does not change. -/
def execPortFaultEnd (port : Nat) (s : State) : Host.Outcome State Fault Refusal :=
  .next (setPort port { portAt s port with faultInd := false } s)

end Sys2Proof.Machine
end

