-- ==== Sys2Proof/Machine/Loader.lean ====
section
/-! DEFINITION. The Plan Loader (01): resets, the start delay, the read and the end of the load, and the Node Clock's tick
(02 R19). -/

namespace Sys2Proof.Machine

/-! ## Resets (R4) -/

/-- Every block's state after any reset (01 R3, 02 R19, R25, 03 R29, 04 R45, 05 R66, 06 R86, 08 R125, 09 R148, R154,
11 R180). The input indications are pins and keep their levels; the commands waiting outside stay. -/
def resetBlocks (pld : Pld) (s : State) : State where
  pending := s.pending
  rstnLow := false
  powerOnDue := false
  clock := 0
  pld := pld
  mon := ⟨.reset s.mon.east.light s.mon.east.lock, .reset s.mon.west.light s.mon.west.lock⟩
  link := ⟨.reset, .reset⟩
  nrv := .reset
  toCcl := []
  toDce := []
  circuits := []
  queue := []
  lanes := ⟨[], []⟩
  lsd := .reset s.lsd.ackReady
  tpc := ⟨s.tpc.ports.map fun p => .reset p.homeInd p.faultInd, List.replicate Config.slots .free, []⟩
  mgp := .reset
  work := []

/-- 01 R4: PLD after a warm reset: the demotion list and the frozen flag are kept, and the image read begins at once
(R5). -/
def Pld.warm (cause : ResetCause) (p : Pld) : Pld :=
  { Pld.powerOn with
    demotions := p.demotions, frozen := p.frozen, resetCause := cause, startDelay := none, load := .header }

/-- 01 R4: a power-on reset. -/
def powerOn (s : State) : State := resetBlocks .powerOn s

/-- 01 R4: a warm reset. -/
def warmReset (cause : ResetCause) (s : State) : State := resetBlocks (Pld.warm cause s.pld) s

/-! ## The end of the load (R12 to R14) -/

/-- The mode is set, the plan values are in place and PlanLoaded is posted (01 R12). -/
def loadEnds (mode : Mode) (plan : Plan) (asRead : AsRead) (clamped discarded : Nat) (cause : ListenCause) (s : State) :
    State :=
  post (.planLoaded mode clamped discarded cause)
    (s.setPld
      { s.pld with
        mode := mode, plan := some plan, asRead := some asRead, clamped := clamped, discarded := discarded,
        listenCause := cause, load := .none })

/-- What starts in RUN and LISTEN alike: the Ring View and the own reports (05 R66), the links (04 R46), the Spare Lane
Map's extent (08 R125) and the monitors (03 R30). The sides start East first; no rule orders them (Log 35). -/
def startBlocks (s : State) : State :=
  let entries := List.replicate (Config.lanes - s.plan.spareBase) LaneEntry.free
  let mapped := (s.setLanes .east entries).setLanes .west entries
  monitorStart .west (monitorStart .east (linkStart .west (linkStart .east (nrvStart mapped))))

/-- 01 R14: the load ends in LISTEN. -/
def listenLoad (header : List Byte) (cause : ListenCause) (s : State) : State :=
  startBlocks (loadEnds .listen (headerPlan header) (headerAsRead header) (headerClamped header) 0 cause s)

/-- 01 R13 step 3: the working setting of a side and lane. -/
def workingSetting (cs : List Circuit) (side : Side) (lane : Nat) : Setting :=
  match cs.find? fun c => c.lane = lane && c.workingSides.contains side with
  | some c => if c.role = .transit then .pass else .addDrop c.portNo
  | none => .block

/-- The Head or Tail record bound to a port (09 R154). -/
def ownerOf (cs : List Circuit) (port : Nat) : Option Nat :=
  (cs.find? fun c => c.isEnd && c.port = some port).map (·.id)

/-- 01 R13 step 4: every bound port takes its owner and asks to be homed, in ascending port number (09 R155). A homing
that ends at once has ended before the next port asks (R156). -/
def homeBound (s : State) : State :=
  (List.range Config.ports).foldl (fun t port =>
    match ownerOf t.circuits port with
    | some id => settle (needSlot port .home (setPort port { portAt t port with owner := some id } t))
    | none => t) s

/-- 01 R13: the load ends in RUN with the accepted records. -/
def runLoad (header image : List Byte) (s : State) : State :=
  match headerIdent header with
  | none => s
  | some i =>
    let spans := (List.range i.ring).map (spanRecord image)
    let plan := { headerPlan header with spans := spans.map (·.1) }
    let taken := (List.range (hCount header)).foldl (takeRecord i plan.spareBase image) ⟨[], 0, 0⟩
    let corrected := correctAll plan.spareBase taken.accepted
    let clamped := headerClamped header + (spans.map (·.2)).sum + taken.clamped + corrected.2
    let circuits := corrected.1.map fun c => { c with cls := derivedClass s.pld.demotions c }
    let started := startBlocks (loadEnds .run plan (headerAsRead header) clamped taken.discarded .none s)
    homeBound (laneLoad (workingSetting circuits) (started.setCircuits circuits))

/-! ## Commands -/

/-- POWER_ON_RESET (01 R4): the supply has become stable. Under a low RSTN the reset waits for its release; the command that
comes after that is the release (Log 6). -/
def execPowerOnReset (s : State) : Host.Outcome State Fault Refusal :=
  .next (if s.rstnLow && !s.powerOnDue then { s with powerOnDue := true } else powerOn s)

/-- PIN_RESET (01 R4): RSTN is released. The reset is a power-on reset when the supply became stable under the low level, and
a pin reset otherwise (Log 6). -/
def execPinReset (s : State) : Host.Outcome State Fault Refusal :=
  .next (if s.powerOnDue then powerOn s else warmReset .resetPin s)

/-- COMMAND_RESET (01 R4, 11 R191): taken once the Warm Reset response has been sent. -/
def execCommandReset (s : State) : Host.Outcome State Fault Refusal :=
  .next (if !s.rstnLow && s.mgp.resetDue then warmReset .command s else s)

/-- RSTN_ASSERTED (01 R4): RSTN goes low; the part stays in reset until its release. -/
def execRstnAsserted (s : State) : Host.Outcome State Fault Refusal := .next { s with rstnLow := true }

/-- CLOCK_TICK (02 R19) -/
def execClockTick (s : State) : Host.Outcome State Fault Refusal :=
  .next (if s.rstnLow then s else { s with clock := nextTick s.clock })

/-- START_DELAY_EXPIRY (01 R5) -/
def execStartDelayExpiry (s : State) : Host.Outcome State Fault Refusal :=
  .next <|
    if !s.rstnLow && due s s.pld.startDelay then s.setPld { s.pld with startDelay := none, load := .header } else s

/-- HEADER_READ_COMPLETE (01 R6, R7): checks 1 to 7; a failed check ends the load in LISTEN. -/
def execHeaderReadComplete (bytes : List Byte) (s : State) : Host.Outcome State Fault Refusal :=
  .next <|
    if !s.rstnLow && s.pld.load = .header then
      let header := fitBytes Config.headerBytes bytes
      let cause := headerFault header
      if cause = .none then s.setPld { s.pld with load := .rest header } else listenLoad header cause s
    else s

/-- IMAGE_READ_COMPLETE (01 R6, R7): checks 8 and 9, then the load ends in RUN or LISTEN. -/
def execImageReadComplete (bytes : List Byte) (s : State) : Host.Outcome State Fault Refusal :=
  .next <|
    if s.rstnLow then s
    else
      match s.pld.load with
      | .rest header =>
        let image := header ++ fitBytes (hLength header - Config.headerBytes) bytes
        let cause := trailerFault image
        if cause = .none then runLoad header image s else listenLoad header cause s
      | _ => s

end Sys2Proof.Machine
end

