-- ==== Sys2Proof/Machine/Operands.lean ====
section
/-! DEFINITION. The parameters of management commands (11 R181 step 5, 12 R198): every operand form, judged by length,
width and code. A string that is not of its command's form decodes to none, which answers BadParameter. -/

namespace Sys2Proof.Machine

/-- A command that takes no parameters. -/
def noParams (p : List Byte) : Option Unit := if p.isEmpty then some () else none

/-- One byte. -/
def byteParam (p : List Byte) : Option Nat :=
  match p with
  | [a] => some a.toNat
  | _ => none

/-- A circuit id, at most 4095 (12 R198). -/
def circuitId (hi lo : Byte) : Option Nat := if nat2 hi lo ≤ 4095 then some (nat2 hi lo) else none

/-- A circuit id alone. -/
def idParam (p : List Byte) : Option Nat :=
  match p with
  | [hi, lo] => circuitId hi lo
  | _ => none

/-- A side alone. -/
def sideParam (p : List Byte) : Option Side :=
  match p with
  | [a] => Side.ofCode a.toNat
  | _ => none

/-- A port 0 to 11. -/
def portParam (p : List Byte) : Option Nat :=
  match p with
  | [a] => if a.toNat < Config.ports then some a.toNat else none
  | _ => none

/-- A side and a lane 0 to 47. -/
def laneParams (p : List Byte) : Option (Side × Nat) :=
  match p with
  | [a, b] => (Side.ofCode a.toNat).bind fun side => if b.toNat < Config.lanes then some (side, b.toNat) else none
  | _ => none

/-- A Circuit Request of one request code (12.4): the circuit id. -/
def requestParams (code : Byte) (p : List Byte) : Option Nat :=
  match p with
  | [hi, lo, r] => if r = code then circuitId hi lo else none
  | _ => none

/-- A Span Flags command of one flag and action (12.4): the side. -/
def flagParams (flag action : Byte) (p : List Byte) : Option Side :=
  match p with
  | [a, f, x] => if f = flag && x = action then Side.ofCode a.toNat else none
  | _ => none

/-- A circuit id and a class code (12 R198). -/
def demoteParams (p : List Byte) : Option (Nat × Class) :=
  match p with
  | [hi, lo, c] =>
    (circuitId hi lo).bind fun id =>
      if c = 0 then some (id, .none) else if c = 1 then some (id, .opportunistic)
      else if c = 2 then some (id, .preplanned) else none
  | _ => none

/-- A filter of Circuit Find: FFh matches anything, another value must lie below the limit (11 R187, 12 R198). -/
def filterParam (limit : Nat) (b : Byte) : Option (Option Nat) :=
  if b = 0xFF then some none else if b.toNat < limit then some (some b.toNat) else none

/-- The parameters of Circuit Find: a start index 0 to 191 and the filters of role, state and bundle (11 R187). -/
structure FindParams where
  start : Nat
  role : Option Nat
  state : Option Nat
  bundle : Option Nat
deriving DecidableEq, Repr

def findParams (p : List Byte) : Option FindParams :=
  match p with
  | [i, r, t, b] =>
    match filterParam 3 r, filterParam 8 t, filterParam 16 b with
    | some role, some state, some bundle => if i.toNat ≤ 191 then some ⟨i.toNat, role, state, bundle⟩ else none
    | _, _, _ => none
  | _ => none

end Sys2Proof.Machine
end

