-- ==== Sys2Proof/Machine/Reply.lean ====
section
/-! DEFINITION. The data of responses and the bytes of frames on MTX (11 R183 to R187, R193, 12 R199): the codes of the
enumerations (12.4) and the layout of every query. Log 13 says where the order inside an entry is read from
the sentences of R85, R147 and R163. -/

namespace Sys2Proof.Machine

/-! ## Codes (12.4) -/

def Mode.code : Mode → Nat
  | .start => 0
  | .run => 1
  | .listen => 2

def ResetCause.code : ResetCause → Nat
  | .powerOn => 0
  | .resetPin => 1
  | .command => 2

def ListenCause.code : ListenCause → Nat
  | .none => 0
  | .signature => 1
  | .version => 2
  | .ringSize => 3
  | .nodeNumber => 4
  | .spareBase => 5
  | .circuitCount => 6
  | .length => 7
  | .trailer => 8
  | .check => 9

def MonState.code : MonState → Nat
  | .clear => 0
  | .holdoff => 1
  | .cut => 2
  | .soak => 3

def LinkState.code : LinkState → Nat
  | .down => 0
  | .pacing => 1
  | .listening => 2
  | .readying => 3
  | .up => 4
  | .failed => 5
  | .loop => 6

def LinkCause.code : LinkCause → Nat
  | .none => 0
  | .errorRun => 1
  | .silence => 2

def SpanStatus.code : SpanStatus → Nat
  | .usable => 0
  | .failed => 1
  | .unknown => 2

def LaneEntry.code : LaneEntry → Nat
  | .free => 0
  | .blocked => 1
  | .pending _ _ => 2
  | .held _ => 3

def Role.code : Role → Nat
  | .head => 0
  | .tail => 1
  | .transit => 2

def CircuitState.code : CircuitState → Nat
  | .working => 0
  | .queued => 1
  | .claiming => 2
  | .retuning => 3
  | .detoured => 4
  | .waitRestore => 5
  | .reverting => 6
  | .stranded => 7

def Request.code : Request → Nat
  | .none => 0
  | .pin => 1
  | .forced => 2
  | .manual => 3

def PortState.code : PortState → Nat
  | .unhomed => 0
  | .homing => 1
  | .idle => 2
  | .stepping => 3
  | .fault => 4

def SlotRequest.code : SlotRequest → Nat
  | .none => 0
  | .home => 1
  | .step => 2

/-- 12.3: the status codes. -/
def Status.code : Status → Nat
  | .done => 0x00
  | .accepted => 0x01
  | .busy => 0x02
  | .badFrame => 0x03
  | .invalidCommand => 0x04
  | .notReady => 0x05
  | .badParameter => 0x06
  | .unknownId => 0x07
  | .noMatch => 0x08
  | .notHead => 0x09
  | .notRestorable => 0x0A
  | .notDetoured => 0x0B
  | .workingUnusable => 0x0C
  | .frozen => 0x0D
  | .listening => 0x0E

/-! ## Fields (12 R199) -/

/-- An absent field carries FFh in each of its bytes. -/
def absent (n : Nat) : List Byte := List.replicate n 0xFF

/-- A one-byte field that may be absent. -/
def optByte (v : Option Nat) : List Byte := [byte (v.getD 0xFF)]

/-- A deadline's value in six bytes, FFh when disarmed. -/
def deadlineBytes (d : Deadline) : List Byte :=
  match d with
  | some v => bytes6 v
  | none => absent 6

/-- A set of lanes in six bytes, lane 0 the least significant bit of the last. -/
def laneSet (lanes : List Nat) : List Byte :=
  bytes6 ((List.range Config.lanes).foldl (fun n lane => if lanes.contains lane then n + 2 ^ lane else n) 0)

/-! ## Queries -/

/-- 11 R183. -/
def statusData (s : State) : List Byte :=
  [byte s.pld.mode.code, byte s.pld.listenCause.code, byte s.pld.resetCause.code] ++ bytes6 s.clock ++
  [byte (bit s.pld.frozen)] ++ bytes2 s.pld.clamped ++ [byte s.pld.discarded] ++
  optByte (s.pld.asRead.map (·.node)) ++ optByte (s.pld.asRead.map (·.ring)) ++ optByte (s.pld.asRead.map (·.base)) ++
  [byte s.pld.demotions.length, byte (slotsUsed s), byte s.queue.length, byte s.mgp.events.length]

/-- 05 R85: one end report: presence, condition, link status, Spares Locked, sequence. -/
def reportBytes (r : Option Report) : List Byte :=
  match r with
  | none => byte 0 :: absent 4
  | some r =>
    [byte (if r.stale then 2 else 1), byte r.condition.code, byte (bit r.linkUp), byte (bit r.locked), byte r.seq]

/-- 11 R184: the side's own fields, or their absence on another span. -/
def sideBytes (s : State) (side : Option Side) : List Byte :=
  match side with
  | none => absent 8
  | some side =>
    let l := s.linkAt side
    [byte side.code, byte (s.monAt side).state.code, byte l.state.code] ++ optByte (l.rate.map Rate.code) ++
      [byte l.txOverflow, byte l.checkErrors, byte l.framingErrors, byte l.overruns]

/-- The side that faces a span of this node. -/
def ownSide (i : Ident) (span : Nat) : Option Side :=
  if span = i.span .east then some .east else if span = i.span .west then some .west else none

/-- 11 R184, 05 R85: a span of the ring. -/
def spanData (i : Ident) (span : Nat) (s : State) : List Byte :=
  let (w, e) := spanReports s span
  reportBytes w ++ reportBytes e ++
  [byte (statusOf s span).code, byte (bit (lockedOf s span)), byte (bit (degradedOf s span)), byte (segmentOf s span),
    byte (segmentOf s ((span + 1) % i.ring))] ++ sideBytes s (ownSide i span)

/-- 11 R184: a side of a node that does not know its identity; the Ring View fields are absent. The East side's own report
stands as the West end's, the West side's as the East end's, and the side byte is sent (Log 36). -/
def strangerData (side : Side) (s : State) : List Byte :=
  let own := reportBytes (ownReport s side)
  (match side with
    | .east => own ++ absent 5
    | .west => absent 5 ++ own) ++ absent 5 ++ sideBytes s (some side)

/-- 08 R147: a Spare Lane Map entry. -/
def laneData (e : LaneEntry) : List Byte :=
  let deadline : Deadline := match e with
    | .pending _ d => some d
    | _ => none
  byte e.code ::
    (match e.claim with
      | none => absent 9
      | some c =>
        bytes2 c.id ++ [byte c.head, byte c.tail, byte c.dir.code, byte c.tag, byte c.urgency, byte c.rank,
          byte c.priority]) ++ deadlineBytes deadline

/-- 09 R163: a Port Table record. A present lane that is Unknown is sent as an absent one, FFh (Log 43). -/
def portData (port : Nat) (s : State) : List Byte :=
  let p := portAt s port
  [byte p.state.code] ++ optByte p.present ++ optByte p.target ++ [byte p.request.code, byte (bit (isWaiting s port))] ++
    optByte ((slotOf s port).map (· + 1)) ++ [byte p.homeCount] ++
    (match p.owner with
      | some id => bytes2 id
      | none => absent 2)

/-- 12 R199: the working side: the side code, or 02h for the two sides of a Transit record. -/
def workingSideByte (c : Circuit) : Byte := if c.role = .transit then 0x02 else byte c.workSide.code

/-- 12 R199: the run-time fields of a record, FFh where its role does not hold them. -/
def runTimeData (c : Circuit) : List Byte :=
  match c.role with
  | .head =>
    [byte c.state.code, byte c.request.code] ++ optByte c.detour ++ optByte c.parked ++ [byte c.tag, byte c.count] ++
      laneSet c.excluded ++ deadlineBytes c.claimTimeout ++ deadlineBytes c.waitToRestore ++ absent 1 ++
      [byte c.reason.code]
  | .tail =>
    [byte c.state.code] ++ absent 1 ++ optByte c.detour ++ absent 1 ++ [byte c.tag] ++ absent 19 ++
      [byte c.headNode] ++ absent 1
  | .transit => absent 26

/-- 12 R199: the 46 bytes of Circuit Query. -/
def circuitData (c : Circuit) : List Byte :=
  bytes2 c.id ++ [byte c.a, byte c.z, byte c.dir.code, byte c.lane, byte c.role.code, workingSideByte c] ++
  optByte (if c.isEnd then some c.detourSide.code else none) ++
  [byte c.planClass.rank, byte c.cls.rank] ++ optByte c.preplanned ++
  [byte c.priority, byte c.bundle, byte (bit c.revertive)] ++ bytes2 c.ceiling ++ bytes2 c.allowance ++ optByte c.port ++
  runTimeData c

/-- 11 R186: the data of Plan Query: the plan fields in the order that 12 R199 gives them in Circuit Query (Log 13). -/
def planData (c : Circuit) : List Byte :=
  bytes2 c.id ++ [byte c.a, byte c.z, byte c.dir.code, byte c.lane, byte c.planClass.rank] ++ optByte c.preplanned ++
  [byte c.priority, byte c.bundle, byte (bit c.revertive)] ++ bytes2 c.ceiling ++ bytes2 c.allowance ++ optByte c.port

/-- 11 R187: a record matches when every filter matches it; a Transit record matches a state filter of FFh alone. -/
def findMatches (f : FindParams) (c : Circuit) : Bool :=
  (f.role.all fun r => c.role.code = r) && (f.state.all fun t => c.isEnd && c.state.code = t) &&
    (f.bundle.all fun b => c.bundle = b)

/-- 11 R187: the index of the first match from the start index on. -/
def findIndex (f : FindParams) (cs : List Circuit) : Option Nat :=
  ((cs.drop f.start).findIdx? (findMatches f)).map (f.start + ·)

/-! ## Events (12 R199) -/

/-- 12 R199: kind code, subject and the detail bytes in use. -/
def EventBody.fields : EventBody → Byte × List Byte × List Byte
  | .planLoaded mode clamped discarded cause =>
    (0x01, absent 2, [byte mode.code, byte cause.code, byte discarded] ++ bytes2 clamped)
  | .spanDeclared side new previous state =>
    (0x02, bytes2 side.code, [byte new.code, byte previous.code, byte state.code])
  | .linkState side new previous rate cause =>
    (0x03, bytes2 side.code, [byte new.code, byte previous.code, byte rate.code, byte cause.code])
  | .restartHeard origin side => (0x04, bytes2 origin, [byte side.code])
  | .circuitState id new previous reason => (0x05, bytes2 id, [byte new.code, byte previous.code, byte reason.code])
  | .claimRefused id reason node => (0x06, bytes2 id, [byte reason.code, node])
  | .manualWithdrawn id => (0x07, bytes2 id, [])
  | .portHomed port => (0x08, bytes2 port, [])
  | .portFault port left => (0x09, bytes2 port, [byte left.code])
  | .loopResult side returned => (0x0A, bytes2 side.code, [byte returned])
  | .overflow lost => (0x0B, absent 2, bytes2 lost)

/-- 12 R199: an event record of 14 bytes; unused detail bytes are 00h. -/
def eventBytes (e : Event) : List Byte :=
  let (kind, subject, detail) := e.body.fields
  kind :: bytes6 e.stamp ++ subject ++ (detail ++ List.replicate 5 0x00).take 5

/-- 11 R193, 12 R199: the data of Fetch Events. -/
def eventsData (es : List Event) : List Byte := byte es.length :: es.flatMap eventBytes

/-- 12.3: a response frame: start byte, status, data length, data, and the check byte that makes the sum 0. -/
def responseFrame (r : Response) : List Byte :=
  let body := 0xA6 :: byte r.status.code :: byte r.data.length :: r.data
  body ++ [-(byteSum body)]

end Sys2Proof.Machine
end

