-- ==== Sys2Proof/Machine/Port.lean ====
section
/-! DEFINITION. The Management Port (11): the judgement of a command frame, owed responses, every management command, and
the sending of responses. -/

namespace Sys2Proof.Machine

/-! ## Owed responses (R182) -/

/-- A response joins the owed list as the newest. -/
def owe (r : Response) (s : State) : State := s.setMgp { s.mgp with owed := s.mgp.owed ++ [r] }

/-- The Busy responses that the owed list holds. -/
def busyOwed (s : State) : Nat := (s.mgp.owed.filter fun r => r.status = .busy).length

/-- 11 R182: a frame that completes while a response is owed: Busy, or no response while 255 Busy responses are held. -/
def answerBusy (s : State) : State :=
  if busyOwed s < Config.busyCapacity then owe ⟨.busy, [], false⟩ s else s

/-- A response is owed, or the last byte of the Warm Reset response has been sent and its reset is due (R191, Log 7). -/
def occupied (s : State) : Bool := !s.mgp.owed.isEmpty || s.mgp.resetDue

/-- 11 R181 steps 1 to 4: a frame of a known command that completes; step 4 lets Status Query alone through in START. -/
def command (inStart : Bool) (act : State → State) (s : State) : State :=
  if s.rstnLow then s
  else if occupied s then answerBusy s
  else if s.pld.mode = .start && !inStart then owe ⟨.notReady, [], false⟩ s
  else act s

/-- A status without data. -/
def reply (status : Status) (s : State) : State := owe ⟨status, [], false⟩ s

/-- 11 R181 step 5: the parameters decode, or BadParameter. -/
def withParams {α : Type} (p : Option α) (act : α → State → State) (s : State) : State :=
  match p with
  | some a => act a s
  | none => reply .badParameter s

/-- A query: Done with its data. -/
def answer (data : State → List Byte) (s : State) : State := owe ⟨.done, data s, false⟩ s

/-- A command on the record of a circuit id; UnknownId without one (11 R186, R188). -/
def withCircuit (id : Nat) (act : Circuit → State → State) (s : State) : State :=
  match findCircuit s id with
  | some c => act c s
  | none => reply .unknownId s

/-- The command was carried out (11 R181 step 7). -/
def Status.success (status : Status) : Bool := status = .done || status = .accepted

/-- An operation with its status. The effects of one carried out have taken place by the time its response joins (11
R188); a refused one has none. -/
def carryOut (act : State → Status × State) (s : State) : State :=
  let (status, s') := act s
  reply status (if status.success then settle s' else s)

/-! ## Queries -/

/-- 11 R184 -/
def spanQueryOf (span : Nat) (s : State) : State :=
  match s.ident with
  | some i => if span < i.ring then answer (spanData i span) s else reply .badParameter s
  | none =>
    match Side.ofCode span with
    | some side => answer (strangerData side) s
    | none => reply .badParameter s

/-- 11 R185 -/
def laneQueryOf (place : Side × Nat) (s : State) : State :=
  match laneEntry s place.1 place.2 with
  | some e => answer (fun _ => laneData e) s
  | none => reply .badParameter s

/-- 11 R187 -/
def circuitFindOf (f : FindParams) (s : State) : State :=
  match findIndex f s.circuits with
  | none => reply .noMatch s
  | some i => answer (fun s => byte i :: bytes2 ((s.circuits[i]?.map (·.id)).getD 0)) s

/-! ## Demotion (R189, 01 R15) -/

/-- 01 R15: an entry joins the demotion list: its class replaces an entry's of the same id, in that entry's place; a full
list first loses its oldest entry whose id has no record. -/
def recordDemotion (circuits : List Circuit) (d : Demotion) (list : List Demotion) : List Demotion :=
  if list.any fun e => e.id = d.id then list.map fun e => if e.id = d.id then d else e
  else if list.length < Config.demotionCapacity then list ++ [d]
  else list.eraseP (fun e => !circuits.any fun c => c.id = e.id) ++ [d]

/-- 01 R15, 06 R87: the class of a head is lowered and the Circuit Logic acts on it. -/
def demoteRecord (cls : Class) (c : Circuit) (s : State) : State :=
  let recorded := s.setPld { s.pld with demotions := recordDemotion s.circuits ⟨c.id, cls⟩ s.pld.demotions }
  let lowered := { c with cls := cls }
  classLowered lowered (putCircuit lowered recorded)

/-- 11 R189, in the order of its judgement. -/
def demoteOf (d : Nat × Class) (s : State) : State :=
  if s.pld.frozen then reply .frozen s
  else withCircuit d.1 (fun c s =>
    if c.role ≠ .head then reply .notHead s
    else if c.cls.rank ≤ d.2.rank then reply .badParameter s
    else carryOut (fun s => (.done, demoteRecord d.2 c s)) s) s

/-- 01 R15: the list is emptied, every plan class restored, and each head whose class rose is evaluated. -/
def restoreClasses (s : State) : State :=
  let rose := (s.circuits.filter fun c => c.cls.rank < c.planClass.rank).map (·.id)
  let restored := (s.setPld { s.pld with demotions := [] }).setCircuits
    (s.circuits.map fun c => { c with cls := c.planClass })
  evaluateAll (fun c => (groupOf s c).any rose.contains) restored

/-! ## Rehome (R190, 09 R162) -/

/-- 09 R162: the owner, if any, leaves the lane of an IDLE port free to be rehomed. -/
def ownerAllowsRehome (s : State) (p : Port) : Bool :=
  match p.owner.bind (findCircuit s) with
  | none => true
  | some c => c.state = .working || c.state = .queued || c.state = .claiming || c.state = .stranded

/-- 09 R162: the port may be given the slot request Home. -/
def mayRehome (s : State) (port : Nat) : Bool :=
  let p := portAt s port
  !isWaiting s port &&
    match p.state with
    | .fault => true
    | .unhomed => true
    | .idle => ownerAllowsRehome s p
    | .homing => false
    | .stepping => false

/-- 09 R162, 11 R190 -/
def rehomeOf (port : Nat) (s : State) : State :=
  if s.pld.mode = .listen then reply .listening s
  else if mayRehome s port then
    carryOut (fun s => (.accepted, needSlot port .home (setPort port { portAt s port with target := none } s))) s
  else reply .busy s

/-- 11 R190, 04 R63 -/
def loopTestOf (side : Side) (s : State) : State :=
  match takeLoopTest side s with
  | some s' => reply .accepted s'
  | none => reply .busy s

/-! ## Events (R193) -/

/-- 11 R193: up to 8 of the oldest entries are removed and answered. -/
def fetchEventsOf (s : State) : State :=
  answer (fun _ => eventsData (s.mgp.events.take 8)) (s.setMgp { s.mgp with events := s.mgp.events.drop 8 })

/-! ## Commands -/

/-- STATUS_QUERY (11 R183), answered in every mode. -/
def execStatusQuery (p : List Byte) (s : State) : Host.Outcome State Fault Refusal :=
  .next (command true (withParams (noParams p) fun _ => answer statusData) s)

/-- SPAN_QUERY (11 R184) -/
def execSpanQuery (p : List Byte) (s : State) : Host.Outcome State Fault Refusal :=
  .next (command false (withParams (byteParam p) spanQueryOf) s)

/-- CIRCUIT_QUERY (11 R186) -/
def execCircuitQuery (p : List Byte) (s : State) : Host.Outcome State Fault Refusal :=
  .next (command false (withParams (idParam p) fun id => withCircuit id fun c => answer fun _ => circuitData c) s)

/-- CIRCUIT_FIND (11 R187) -/
def execCircuitFind (p : List Byte) (s : State) : Host.Outcome State Fault Refusal :=
  .next (command false (withParams (findParams p) circuitFindOf) s)

/-- LANE_QUERY (11 R185) -/
def execLaneQuery (p : List Byte) (s : State) : Host.Outcome State Fault Refusal :=
  .next (command false (withParams (laneParams p) laneQueryOf) s)

/-- PORT_QUERY (11 R185) -/
def execPortQuery (p : List Byte) (s : State) : Host.Outcome State Fault Refusal :=
  .next (command false (withParams (portParam p) fun port => answer (portData port)) s)

/-- PLAN_QUERY (11 R186) -/
def execPlanQuery (p : List Byte) (s : State) : Host.Outcome State Fault Refusal :=
  .next (command false (withParams (idParam p) fun id => withCircuit id fun c => answer fun _ => planData c) s)

/-- CIRCUIT_REQUEST_PIN (06 R106) -/
def execCircuitRequestPin (p : List Byte) (s : State) : Host.Outcome State Fault Refusal :=
  .next (command false
    (withParams (requestParams 0x01 p) fun id => withCircuit id fun c => carryOut (requestPin c)) s)

/-- CIRCUIT_REQUEST_FORCED (06 R106) -/
def execCircuitRequestForced (p : List Byte) (s : State) : Host.Outcome State Fault Refusal :=
  .next (command false
    (withParams (requestParams 0x02 p) fun id => withCircuit id fun c => carryOut (requestDetour .forced c)) s)

/-- CIRCUIT_REQUEST_MANUAL (06 R106) -/
def execCircuitRequestManual (p : List Byte) (s : State) : Host.Outcome State Fault Refusal :=
  .next (command false
    (withParams (requestParams 0x03 p) fun id => withCircuit id fun c => carryOut (requestDetour .manual c)) s)

/-- CIRCUIT_REQUEST_RETURN (06 R107) -/
def execCircuitRequestReturn (p : List Byte) (s : State) : Host.Outcome State Fault Refusal :=
  .next (command false
    (withParams (requestParams 0x04 p) fun id => withCircuit id fun c => carryOut (requestReturn c)) s)

/-- CIRCUIT_REQUEST_CLEAR (06 R106) -/
def execCircuitRequestClear (p : List Byte) (s : State) : Host.Outcome State Fault Refusal :=
  .next (command false
    (withParams (requestParams 0x05 p) fun id => withCircuit id fun c => carryOut (requestClear c)) s)

/-- SET_FORCED_OUT (03 R39) -/
def execSetForcedOut (p : List Byte) (s : State) : Host.Outcome State Fault Refusal :=
  .next (command false (withParams (flagParams 0x00 0x01 p) fun side s => reply .done (setForced side true s)) s)

/-- CLEAR_FORCED_OUT (03 R39) -/
def execClearForcedOut (p : List Byte) (s : State) : Host.Outcome State Fault Refusal :=
  .next (command false (withParams (flagParams 0x00 0x00 p) fun side s => reply .done (setForced side false s)) s)

/-- SET_SPARES_LOCKED (03 R40) -/
def execSetSparesLocked (p : List Byte) (s : State) : Host.Outcome State Fault Refusal :=
  .next (command false (withParams (flagParams 0x01 0x01 p) fun side s => reply .done (setLocked side true s)) s)

/-- CLEAR_SPARES_LOCKED (03 R40) -/
def execClearSparesLocked (p : List Byte) (s : State) : Host.Outcome State Fault Refusal :=
  .next (command false (withParams (flagParams 0x01 0x00 p) fun side s => reply .done (setLocked side false s)) s)

/-- DEMOTE (11 R189) -/
def execDemote (p : List Byte) (s : State) : Host.Outcome State Fault Refusal :=
  .next (command false (withParams (demoteParams p) demoteOf) s)

/-- RESTORE_PLAN (01 R15) -/
def execRestorePlan (p : List Byte) (s : State) : Host.Outcome State Fault Refusal :=
  .next (command false (withParams (noParams p) fun _ s =>
    if s.pld.frozen then reply .frozen s else carryOut (fun s => (.done, restoreClasses s)) s) s)

/-- FREEZE_PLAN (01 R17) -/
def execFreezePlan (p : List Byte) (s : State) : Host.Outcome State Fault Refusal :=
  .next (command false (withParams (noParams p) fun _ s =>
    reply .done (s.setPld { s.pld with frozen := true })) s)

/-- REHOME_PORT (09 R162) -/
def execRehomePort (p : List Byte) (s : State) : Host.Outcome State Fault Refusal :=
  .next (command false (withParams (portParam p) rehomeOf) s)

/-- LOOP_TEST (04 R63) -/
def execLoopTest (p : List Byte) (s : State) : Host.Outcome State Fault Refusal :=
  .next (command false (withParams (sideParam p) loopTestOf) s)

/-- FETCH_EVENTS (11 R193) -/
def execFetchEvents (p : List Byte) (s : State) : Host.Outcome State Fault Refusal :=
  .next (command false (withParams (noParams p) fun _ => fetchEventsOf) s)

/-- WARM_RESET (11 R191): answered Done; the reset follows the response. -/
def execWarmReset (p : List Byte) (s : State) : Host.Outcome State Fault Refusal :=
  .next (command false (withParams (noParams p) fun _ => owe ⟨.done, [], true⟩) s)

/-- BAD_FRAME (11 R181 steps 1 to 3) -/
def execBadFrame (why : BadFrameWhy) (s : State) : Host.Outcome State Fault Refusal :=
  .next (command true
    (match why with
      | .abandoned => reply .badFrame
      | .badCheck => reply .badFrame
      | .unknownCode => reply .invalidCommand) s)

/-- RESPONSE_SEND_COMPLETE (11 R182, R191): the oldest owed response leaves the list; after Warm Reset's, the command reset
is due. -/
def execResponseSendComplete (s : State) : Host.Outcome State Fault Refusal :=
  .next <|
    match s.mgp.owed with
    | r :: rest =>
      if s.rstnLow then s
      else s.setMgp { s.mgp with owed := rest, resetDue := s.mgp.resetDue || r.warmReset }
    | [] => s

end Sys2Proof.Machine
end

