-- ==== Sys2Proof/Machine/Wire.lean ====
section
/-! DEFINITION. The two byte receivers below the commands, and the bytes of signalling frames (04 R54, 11 R180, 12.2,
12.3): a received byte may complete a frame, and then the command it spells joins the waiting commands (Log 23). -/

namespace Sys2Proof.Machine

/-! ## CRC and the envelope of a signalling frame -/

/-- One bit of the CRC-16 of polynomial 1021h, most significant bit first (04 R54). -/
def crcBit (crc : BitVec 16) : BitVec 16 := if crc.msb then (crc <<< 1) ^^^ 0x1021 else crc <<< 1

/-- One byte of the CRC. -/
def crcByte (crc : BitVec 16) (b : Byte) : BitVec 16 :=
  crcBit (crcBit (crcBit (crcBit (crcBit (crcBit (crcBit (crcBit (crc ^^^ (b.zeroExtend 16 <<< 8)))))))))

/-- The CRC of a byte string, initial value FFFFh. -/
def crc16 (bs : List Byte) : BitVec 16 := bs.foldl crcByte 0xFFFF

/-- The two CRC bytes, most significant first. -/
def crcBytes (bs : List Byte) : List Byte := bytes2 (crc16 bs).toNat

/-- Kind, length and body: what the CRC covers. -/
def Frame.covered (f : Frame) : List Byte := f.kind.code :: byte f.body.length :: f.body

/-- 12.2: the bytes of a frame on the signalling line. -/
def Frame.bytes (f : Frame) : List Byte := 0xD5 :: (Frame.covered f ++ crcBytes (Frame.covered f))

/-! ## The link receiver (04 R54) -/

/-- What a received byte brings about. -/
inductive Heard where
  | nothing
  | frame (f : Frame)
  | error (e : FrameError)
deriving DecidableEq, Repr

/-- A receiver that hunts takes a byte: a delimiter starts a frame, fill is passed over, and a run of other bytes is one
FramingError however long, taken at the first of them (Log 23). -/
def hunt (stray : Bool) (b : Byte) : Receiver × Heard :=
  if b = 0xD5 then (⟨some [], false⟩, .nothing)
  else if b = 0x2A then (⟨none, false⟩, .nothing)
  else (⟨none, true⟩, if stray then .nothing else .error .framingError)

/-- The frame of the bytes after the delimiter, when they are complete. -/
def judgeFrame (kind : FrameKind) (bs : List Byte) : Heard :=
  let covered := bs.take (2 + kind.bodyLength)
  if bs.drop (2 + kind.bodyLength) = crcBytes covered then .frame ⟨kind, covered.drop 2⟩ else .error .checkError

/-- A receiver inside a frame: kind and length are judged together, then the body and the CRC are read. -/
def assemble (bs : List Byte) : Receiver × Heard :=
  match bs with
  | [] => (⟨some [], false⟩, .nothing)
  | [k] => (⟨some [k], false⟩, .nothing)
  | k :: len :: _ =>
    match FrameKind.ofCode k with
    | none => (.hunting, .error .framingError)
    | some kind =>
      if len.toNat ≠ kind.bodyLength then (.hunting, .error .framingError)
      else if bs.length < kind.bodyLength + 4 then (⟨some bs, false⟩, .nothing)
      else (.hunting, judgeFrame kind bs)

/-- A receiver takes a byte. -/
def Receiver.take (b : Byte) (r : Receiver) : Receiver × Heard :=
  match r.bytes with
  | none => hunt r.stray b
  | some bs => assemble (bs ++ [b])

def Receivers.get (r : Receivers) : Rate → Receiver
  | .fast => r.fast
  | .middle => r.middle
  | .slow => r.slow

def Receivers.set (rate : Rate) (v : Receiver) (r : Receivers) : Receivers :=
  match rate with
  | .fast => { r with fast := v }
  | .middle => { r with middle := v }
  | .slow => { r with slow := v }

/-- 04 R54: the rates that a link receives at. -/
def Link.receivesAt (l : Link) (rate : Rate) : Bool :=
  match l.state with
  | .listening => true
  | .pacing => l.rate = some rate
  | .readying => l.rate = some rate
  | .up => l.rate = some rate
  | .loop => l.rate = some rate
  | .down => false
  | .failed => false

/-- The command of a valid frame at a rate. -/
def frameCommand (side : Side) (rate : Rate) (f : Frame) : Instr :=
  match f.kind with
  | .pace => .paceFrameReceived side rate
  | .ready => .readyFrameReceived side rate
  | .idle => .idleFrameReceived side rate
  | .loopTest => .loopTestFrameReceived side rate (byteAt f.body 0)
  | _ => .heldFrameReceived side rate f

/-- The commands of what a receiver has heard. -/
def heardCommands (side : Side) (rate : Rate) : Heard → List Instr
  | .nothing => []
  | .frame f => [frameCommand side rate f]
  | .error e => [.erroredFrame side e]

/-- A byte arrives on the signalling receive line of a side at a rate. -/
def signalByte (side : Side) (rate : Rate) (b : Byte) (s : State) : State :=
  let l := s.linkAt side
  if s.running && l.receivesAt rate then
    let (r, heard) := (l.rx.get rate).take b
    let heardState := s.setLink side { l with rx := l.rx.set rate r }
    { heardState with pending := s.pending ++ heardCommands side rate heard }
  else s

/-! ## The management receiver (11 R180) -/

/-- The Circuit Request row that the request byte selects (12.4). -/
def requestCommand (p : List Byte) : Instr :=
  if selects p 2 0x02 then .circuitRequestForced p
  else if selects p 2 0x03 then .circuitRequestManual p
  else if selects p 2 0x04 then .circuitRequestReturn p
  else if selects p 2 0x05 then .circuitRequestClear p
  else .circuitRequestPin p

/-- The Span Flags row that the flag and action bytes select (12.4). -/
def flagsCommand (p : List Byte) : Instr :=
  if spanFlags p 0x00 0x00 then .clearForcedOut p
  else if spanFlags p 0x01 0x01 then .setSparesLocked p
  else if spanFlags p 0x01 0x00 then .clearSparesLocked p
  else .setForcedOut p

/-- 12.3: the command of a code, with its parameters. -/
def codeCommand (code : Byte) (p : List Byte) : Instr :=
  match code.toNat with
  | 0x01 => .statusQuery p
  | 0x02 => .spanQuery p
  | 0x03 => .circuitQuery p
  | 0x04 => .circuitFind p
  | 0x05 => .laneQuery p
  | 0x06 => .portQuery p
  | 0x07 => .planQuery p
  | 0x10 => requestCommand p
  | 0x11 => flagsCommand p
  | 0x12 => .demote p
  | 0x13 => .restorePlan p
  | 0x14 => .freezePlan p
  | 0x15 => .rehomePort p
  | 0x16 => .loopTest p
  | 0x20 => .fetchEvents p
  | 0x30 => .warmReset p
  | _ => .badFrame .unknownCode

/-- A command frame's bytes so far, the start byte first: what is kept, and the command it spells when complete. -/
def assembleCommand (bs : List Byte) : Option (List Byte) × List Instr :=
  match bs with
  | _ :: code :: len :: _ =>
    if 32 < len.toNat then (none, [.badFrame .abandoned])
    else if bs.length < len.toNat + 4 then (some bs, [])
    else if byteSum bs = 0 then (none, [codeCommand code ((bs.drop 3).take len.toNat)])
    else (none, [.badFrame .badCheck])
  | _ => (some bs, [])

/-- A byte arrives on MRX. -/
def mrxByte (b : Byte) (s : State) : State :=
  if s.rstnLow then s
  else
    let (rx, commands) :=
      match s.mgp.rx with
      | none => if b = 0xA5 then (some [b], []) else (none, [])
      | some bs => assembleCommand (bs ++ [b])
    { s.setMgp { s.mgp with rx := rx } with pending := s.pending ++ commands }

end Sys2Proof.Machine
end

