-- ==== Sys2Proof/Machine/Dispatch.lean ====
section
/-! DEFINITION. One arm for each command: its meaning. -/

namespace Sys2Proof.Machine

def exec (i : Instr) (s : State) : Host.Outcome State Fault Refusal :=
  match i with
  | .powerOnReset => Sys2Proof.Machine.execPowerOnReset s
  | .pinReset => Sys2Proof.Machine.execPinReset s
  | .commandReset => Sys2Proof.Machine.execCommandReset s
  | .clockTick => Sys2Proof.Machine.execClockTick s
  | .startDelayExpiry => Sys2Proof.Machine.execStartDelayExpiry s
  | .headerReadComplete bytes => Sys2Proof.Machine.execHeaderReadComplete bytes s
  | .imageReadComplete bytes => Sys2Proof.Machine.execImageReadComplete bytes s
  | .lightChange side present => Sys2Proof.Machine.execLightChange side present s
  | .frameLockChange side locked => Sys2Proof.Machine.execFrameLockChange side locked s
  | .erroredBlockPulse side => Sys2Proof.Machine.execErroredBlockPulse side s
  | .holdOffExpiry side => Sys2Proof.Machine.execHoldOffExpiry side s
  | .clearSoakExpiry side => Sys2Proof.Machine.execClearSoakExpiry side s
  | .windowBoundaryExpiry side => Sys2Proof.Machine.execWindowBoundaryExpiry side s
  | .hailSequenceExpiry side => Sys2Proof.Machine.execHailSequenceExpiry side s
  | .hailBurstExpiry side => Sys2Proof.Machine.execHailBurstExpiry side s
  | .hailAnswerGuardExpiry side => Sys2Proof.Machine.execHailAnswerGuardExpiry side s
  | .receivedBurstStart side => Sys2Proof.Machine.execReceivedBurstStart side s
  | .receivedBurstEnd side => Sys2Proof.Machine.execReceivedBurstEnd side s
  | .hailGapLimitExpiry side => Sys2Proof.Machine.execHailGapLimitExpiry side s
  | .rateWindowExpiry side => Sys2Proof.Machine.execRateWindowExpiry side s
  | .listeningExpiry side => Sys2Proof.Machine.execListeningExpiry side s
  | .readyingExpiry side => Sys2Proof.Machine.execReadyingExpiry side s
  | .failedHoldExpiry side => Sys2Proof.Machine.execFailedHoldExpiry side s
  | .silenceExpiry side => Sys2Proof.Machine.execSilenceExpiry side s
  | .keepaliveExpiry side => Sys2Proof.Machine.execKeepaliveExpiry side s
  | .loopReturnExpiry side => Sys2Proof.Machine.execLoopReturnExpiry side s
  | .paceFrameReceived side rate => Sys2Proof.Machine.execPaceFrameReceived side rate s
  | .readyFrameReceived side rate => Sys2Proof.Machine.execReadyFrameReceived side rate s
  | .idleFrameReceived side rate => Sys2Proof.Machine.execIdleFrameReceived side rate s
  | .loopTestFrameReceived side rate seq => Sys2Proof.Machine.execLoopTestFrameReceived side rate seq s
  | .heldFrameReceived side rate frame => Sys2Proof.Machine.execHeldFrameReceived side rate frame s
  | .erroredFrame side error => Sys2Proof.Machine.execErroredFrame side error s
  | .frameSendComplete side => Sys2Proof.Machine.execFrameSendComplete side s
  | .refreshExpiry side => Sys2Proof.Machine.execRefreshExpiry side s
  | .freshnessExpiry span theEnd => Sys2Proof.Machine.execFreshnessExpiry span theEnd s
  | .restartGuardExpiry origin side => Sys2Proof.Machine.execRestartGuardExpiry origin side s
  | .spanNotice side => Sys2Proof.Machine.execSpanNotice side s
  | .restartNotice side => Sys2Proof.Machine.execRestartNotice side s
  | .cclSpanChange => Sys2Proof.Machine.execCclSpanChange s
  | .cclSegmentMap => Sys2Proof.Machine.execCclSegmentMap s
  | .cclRestart => Sys2Proof.Machine.execCclRestart s
  | .cclSecondRestart => Sys2Proof.Machine.execCclSecondRestart s
  | .dceLockedChange => Sys2Proof.Machine.execDceLockedChange s
  | .selfClean => Sys2Proof.Machine.execSelfClean s
  | .dceRestart => Sys2Proof.Machine.execDceRestart s
  | .claimTimeoutExpiry id => Sys2Proof.Machine.execClaimTimeoutExpiry id s
  | .waitToRestoreExpiry id => Sys2Proof.Machine.execWaitToRestoreExpiry id s
  | .detourClaim side => Sys2Proof.Machine.execDetourClaim side s
  | .grant side => Sys2Proof.Machine.execGrant side s
  | .refusal side => Sys2Proof.Machine.execRefusal side s
  | .release side => Sys2Proof.Machine.execRelease side s
  | .pendingExpiry side lane => Sys2Proof.Machine.execPendingExpiry side lane s
  | .lsackReady ready => Sys2Proof.Machine.execLsackReady ready s
  | .busTransferEnd => Sys2Proof.Machine.execBusTransferEnd s
  | .settleExpiry side lane => Sys2Proof.Machine.execSettleExpiry side lane s
  | .homingStepExpiry port => Sys2Proof.Machine.execHomingStepExpiry port s
  | .stepExpiry port => Sys2Proof.Machine.execStepExpiry port s
  | .homeIndication port asserted => Sys2Proof.Machine.execHomeIndication port asserted s
  | .portFaultOnset port => Sys2Proof.Machine.execPortFaultOnset port s
  | .portFaultEnd port => Sys2Proof.Machine.execPortFaultEnd port s
  | .statusQuery params => Sys2Proof.Machine.execStatusQuery params s
  | .spanQuery params => Sys2Proof.Machine.execSpanQuery params s
  | .circuitQuery params => Sys2Proof.Machine.execCircuitQuery params s
  | .circuitFind params => Sys2Proof.Machine.execCircuitFind params s
  | .laneQuery params => Sys2Proof.Machine.execLaneQuery params s
  | .portQuery params => Sys2Proof.Machine.execPortQuery params s
  | .planQuery params => Sys2Proof.Machine.execPlanQuery params s
  | .circuitRequestPin params => Sys2Proof.Machine.execCircuitRequestPin params s
  | .circuitRequestForced params => Sys2Proof.Machine.execCircuitRequestForced params s
  | .circuitRequestManual params => Sys2Proof.Machine.execCircuitRequestManual params s
  | .circuitRequestReturn params => Sys2Proof.Machine.execCircuitRequestReturn params s
  | .circuitRequestClear params => Sys2Proof.Machine.execCircuitRequestClear params s
  | .setForcedOut params => Sys2Proof.Machine.execSetForcedOut params s
  | .clearForcedOut params => Sys2Proof.Machine.execClearForcedOut params s
  | .setSparesLocked params => Sys2Proof.Machine.execSetSparesLocked params s
  | .clearSparesLocked params => Sys2Proof.Machine.execClearSparesLocked params s
  | .demote params => Sys2Proof.Machine.execDemote params s
  | .restorePlan params => Sys2Proof.Machine.execRestorePlan params s
  | .freezePlan params => Sys2Proof.Machine.execFreezePlan params s
  | .rehomePort params => Sys2Proof.Machine.execRehomePort params s
  | .loopTest params => Sys2Proof.Machine.execLoopTest params s
  | .fetchEvents params => Sys2Proof.Machine.execFetchEvents params s
  | .warmReset params => Sys2Proof.Machine.execWarmReset params s
  | .badFrame why => Sys2Proof.Machine.execBadFrame why s
  | .responseSendComplete => Sys2Proof.Machine.execResponseSendComplete s
  | .rstnAsserted => Sys2Proof.Machine.execRstnAsserted s

end Sys2Proof.Machine
end

