-- ==== Sys2Proof/Safety.lean ====
section
/-! DEFINITION. The laws of the device as predicates on the state: what every step keeps; and the frames: what a command
leaves as it was. Each cites the rule that calls it a law or gives the range. -/

namespace Sys2Proof.Machine

/-- An event is the Overflow marker. -/
def Event.isMarker (e : Event) : Bool := e.body.lost.isSome

/-- 11 R192, 02 R20: the Event Report Queue never holds more than 64 entries, and at most one Overflow marker, which is its
newest entry; the 64th entry is always a marker. The stamps do not fall from the oldest entry to the newest, and none lies
ahead of the clock. -/
structure EventsLawful (now : Nat) (events : List Event) : Prop where
  length : events.length ≤ Config.eventCapacity
  marker : ∀ e ∈ events.dropLast, e.isMarker = false
  full : (∀ e ∈ events, e.isMarker = false) → events.length < Config.eventCapacity
  past : ∀ e ∈ events, e.stamp ≤ now
  rising : events.Pairwise fun older newer => older.stamp ≤ newer.stamp

/-- 02 R19: the tick count is a 48-bit number. -/
def clockLawful (s : State) : Prop := s.clock ≤ Config.maxTick

/-- 04 R45, R57, R60, R61: the ranges of a link's registers and queues, and the transmit queue empty in every state but
UP. -/
structure Link.Lawful (l : Link) : Prop where
  holding : l.holding.length ≤ Config.holdingCapacity
  queue : l.depth ≤ Config.txCapacity
  onlyUp : l.state ≠ .up → l.urgent = [] ∧ l.routine = []
  hailCount : l.hailCount ≤ Config.hailCount
  readyCount : l.readyCount ≤ 3
  errorRun : l.errorRun ≤ 4 ∧ (l.state = .up → l.errorRun ≤ 3)
  txOverflow : l.txOverflow ≤ 255
  checkErrors : l.checkErrors ≤ 255
  framingErrors : l.framingErrors ≤ 255
  overruns : l.overruns ≤ 255
  loopSent : l.loopSent ≤ Config.loopFrames
  loopReturned : l.loopReturned ≤ Config.loopFrames

/-- Both links are lawful. -/
def linksLawful (s : State) : Prop := ∀ side, (s.linkAt side).Lawful

/-- 01 R4: a power-on reset waits for the release of RSTN under a low RSTN alone. -/
def resetLawful (s : State) : Prop := s.powerOnDue = true → s.rstnLow = true

/-- 06 R97, 10 R165: a record's attempt count stays within its range, and its wait-to-restore deadline is armed exactly in
WAIT_RESTORE. -/
structure Circuit.Lawful (c : Circuit) : Prop where
  count : c.count ≤ Config.attempts
  waiting : c.waitToRestore.isSome = true ↔ c.state = .waitRestore

/-- Every record is lawful. -/
def circuitsLawful (s : State) : Prop := ∀ c ∈ s.circuits, c.Lawful

/-- The slots that a port holds. -/
def Tpc.holds (t : Tpc) (port : Nat) : Nat := (t.slots.filter fun slot => slot.holder = some port).length

/-- The port is in HOMING or STEPPING. -/
def Tpc.moves (t : Tpc) (port : Nat) : Bool := t.ports[port]?.any Port.moving

/-- 09 R154, R155, R159: twelve ports and four slots; a port holds one slot exactly in HOMING and STEPPING, so at most four
ports are there at once; a waiting port is in neither and has its slot request; present and target lanes lie in 0 to 47. -/
structure Tpc.Lawful (t : Tpc) : Prop where
  ports : t.ports.length = Config.ports
  slots : t.slots.length = Config.slots
  four : (t.ports.filter Port.moving).length ≤ Config.slots
  held : ∀ port, t.holds port = if t.moves port then 1 else 0
  waiting : ∀ port ∈ t.waiting, ∃ p, t.ports[port]? = some p ∧ p.moving = false ∧ p.request ≠ .none
  lanes : ∀ p ∈ t.ports, ∀ lane, p.present = some lane ∨ p.target = some lane → lane < Config.lanes

/-- 08 R124, R125: the Spare Lane Map holds lanes B to 47 of either side alone, and nothing before the plan is in place. -/
def mapLawful (s : State) : Prop :=
  ∀ side, (s.lanes.get side).length = match s.pld.plan with
    | some plan => Config.lanes - plan.spareBase
    | none => 0

/-- 06 R93, R86: no two records carry one id, and a node never has more than 8 claim attempts outstanding. -/
def windowLawful (s : State) : Prop := (s.circuits.map (·.id)).Nodup ∧ slotsUsed s ≤ Config.window

/-- 06 R92: the claim queue stands in descending order of key. -/
def queueLawful (s : State) : Prop := s.queue.Pairwise fun front back => back.key.above front.key = false

/-- The laws together. -/
structure Lawful (s : State) : Prop where
  events : EventsLawful s.clock s.mgp.events
  clock : clockLawful s
  links : linksLawful s
  window : windowLawful s
  reset : resetLawful s
  circuits : circuitsLawful s
  ports : s.tpc.Lawful
  map : mapLawful s
  queue : queueLawful s

/-! ## Frames: what a command of a block leaves as it was -/

/-- The queue that some posts at one clock value make of another. -/
def PostsFrom (now : Nat) (before after : List Event) : Prop :=
  ∃ bodies : List EventBody, after = bodies.foldl (fun es b => joinEvents now b es) before

/-- What offers of frames may do to a link (04 R60, R61): nothing at all unless it is in UP, and there only its transmit
queue, its frame in sending and its transmit-overflow count change; the law is kept. -/
structure Link.Offered (l m : Link) : Prop where
  only : m = { l with urgent := m.urgent, routine := m.routine, sending := m.sending, txOverflow := m.txOverflow }
  idle : l.state ≠ .up → m = l
  lawful : l.Lawful → m.Lawful

/-- Nothing but the Circuit Table's run-time fields, the claim queue, the Spare Lane Map, the two equipment blocks, the
reports inside the step, the event queue (by posts alone) and the transmit half of the links changes. -/
structure Quiet (s t : State) : Prop where
  pending : t.pending = s.pending
  rstnLow : t.rstnLow = s.rstnLow
  powerOnDue : t.powerOnDue = s.powerOnDue
  clock : t.clock = s.clock
  pld : t.pld = s.pld
  mon : t.mon = s.mon
  nrv : t.nrv = s.nrv
  toCcl : t.toCcl = s.toCcl
  toDce : t.toDce = s.toDce
  rx : t.mgp.rx = s.mgp.rx
  owed : t.mgp.owed = s.mgp.owed
  resetDue : t.mgp.resetDue = s.mgp.resetDue
  events : PostsFrom s.clock s.mgp.events t.mgp.events
  links : ∀ side, (s.linkAt side).Offered (t.linkAt side)
  ids : t.circuits.map (·.id) = s.circuits.map (·.id)

/-- What a block at the spans may change by a report or a notice: the monitors, the Ring View, the hand-offs of NRV, the event
queue (by posts alone) and the transmit half of the links. Everything else stays. -/
structure Noticed (s t : State) : Prop where
  pending : t.pending = s.pending
  rstnLow : t.rstnLow = s.rstnLow
  powerOnDue : t.powerOnDue = s.powerOnDue
  clock : t.clock = s.clock
  pld : t.pld = s.pld
  circuits : t.circuits = s.circuits
  queue : t.queue = s.queue
  lanes : t.lanes = s.lanes
  lsd : t.lsd = s.lsd
  tpc : t.tpc = s.tpc
  work : t.work = s.work
  rx : t.mgp.rx = s.mgp.rx
  owed : t.mgp.owed = s.mgp.owed
  resetDue : t.mgp.resetDue = s.mgp.resetDue
  events : PostsFrom s.clock s.mgp.events t.mgp.events
  links : ∀ side, (s.linkAt side).Offered (t.linkAt side)

/-- 03 R41, R42, 05 R67: the monitor of a side becomes `m` and declares as its flag and its own condition give. A change of
declared condition posts SpanDeclared and is the new own report; without a change nothing is posted or handed. -/
structure Declares (side : Side) (m : Monitor) (s t : State) : Prop where
  monitor : t.monAt side = { m with declared := some m.declares }
  other : t.monAt side.other = s.monAt side.other
  posted : m.declared.getD .clear ≠ m.declares →
    t.mgp.events =
      joinEvents s.clock (.spanDeclared side m.declares (m.declared.getD .clear) m.state) s.mgp.events
  reported : m.declared.getD .clear ≠ m.declares → ∀ r, s.nrv.own.get side = some r →
    ∃ q, t.nrv.own.get side = some q ∧ q.condition = m.declares ∧ q.linkUp = r.linkUp ∧ q.locked = m.sparesLocked
  unchanged : m.declared.getD .clear = m.declares →
    t.mgp = s.mgp ∧ t.nrv = s.nrv ∧ t.link = s.link ∧ t.toCcl = s.toCcl ∧ t.toDce = s.toDce
  frame : Noticed s t

/-- 04 R53, 05 R67: a link's report is the link status of the side's own report from now on. -/
def ReportsLink (side : Side) (linkUp : Bool) (s t : State) : Prop :=
  ∀ r, s.nrv.own.get side = some r →
    ∃ q, t.nrv.own.get side = some q ∧ q.linkUp = linkUp ∧ q.condition = r.condition ∧ q.locked = r.locked

/-- The commands that act while RSTN is held low: the two resets that its release brings, and the levels of the input pins
(01 R4, Log 6). -/
def actsInReset : Instr → Bool
  | .powerOnReset => true
  | .pinReset => true
  | .lightChange _ _ => true
  | .frameLockChange _ _ => true
  | .lsackReady _ => true
  | .homeIndication _ _ => true
  | .portFaultOnset _ => true
  | .portFaultEnd _ => true
  | _ => false

/-- The blocks after a reset, whichever it is, with the Plan Loader's state given: the values of State.reset, with the input
pins' levels and the waiting commands as they are. -/
def afterReset (pld : Pld) (s : State) : State :=
  { State.reset with
    pending := s.pending
    pld := pld
    mon := ⟨.reset s.mon.east.light s.mon.east.lock, .reset s.mon.west.light s.mon.west.lock⟩
    lsd := .reset s.lsd.ackReady
    tpc := { State.reset.tpc with ports := s.tpc.ports.map fun p => .reset p.homeInd p.faultInd } }

/-- The structural checks of 01 R7 on a header, in order, each with whether it passes. -/
def headerChecks (h : List Byte) : List (ListenCause × Bool) :=
  [(.signature, [field1 h 0, field1 h 1, field1 h 2, field1 h 3] = [0x46, 0x37, 0x31, 0x34]),
   (.version, field1 h 4 = 1),
   (.ringSize, 3 ≤ field1 h 9 && field1 h 9 ≤ 24),
   (.nodeNumber, field1 h 8 < field1 h 9),
   (.spareBase, 24 ≤ field1 h 10 && field1 h 10 ≤ 44),
   (.circuitCount, field1 h 11 ≤ 192),
   (.length, field2 h 6 ≤ 8192 && field2 h 6 = 32 + 4 * field1 h 9 + 16 * field1 h 11 + 2)]

/-- What the first check that fails gives, of checks made in order, each with whether it passes. -/
def firstFailing {α : Type} (checks : List (α × Bool)) : Option α := (checks.find? fun c => !c.2).map (·.1)

/-- The first check that fails, or None. -/
def firstFailed (checks : List (ListenCause × Bool)) : ListenCause := (firstFailing checks).getD .none

/-- A value taken to the nearest limit of its range. -/
def nearest (low high v : Nat) : Nat := max low (min high v)

/-- The event queue after the start of the monitors: PlanLoaded, and SpanDeclared of each side that declares Cut at once. -/
def startEvents (planLoaded : EventBody) (holdOff : Nat) (s : State) : List Event :=
  ([Side.east, .west].filter fun side => (s.monAt side).rawFault && holdOff = 0).foldl
    (fun es side => joinEvents s.clock (.spanDeclared side .cut .clear .cut) es)
    (joinEvents s.clock planLoaded s.mgp.events)

/-- What the monitors and the Ring View start with at the end of a load (03 R30, 05 R66). Each monitor declares Clear and runs
its window to the next multiple of 10,000 ticks (held at the largest count, Log 39); a raw fault that is present is taken as an
onset, of which a hold-off of 0 makes a declared Cut at once, posted after PlanLoaded, East first (Log 35), before the events of
ports that are home or faulty when their homing starts. The own reports are
those first declarations; with the identity known each side's refresh runs, and every span is Unknown but one that this node
itself declares Cut, which is Failed. -/
structure BlocksStarted (planLoaded : EventBody) (s t : State) : Prop where
  monitors : ∀ side, let m := s.monAt side
    let started := { m with
      declared := some .clear, window := some (min ((s.clock / 10000 + 1) * 10000) 0xFFFFFFFFFFFF) }
    t.monAt side =
      if m.rawFault = false then started
      else if t.plan.holdOff = 0 then { started with state := .cut, own := .cut, declared := some .cut }
      else { started with state := .holdoff, holdOff := arm s t.plan.holdOff }
  posted : PostsFrom s.clock (startEvents planLoaded t.plan.holdOff s) t.mgp.events
  events : (∀ p ∈ s.tpc.ports, p.homeInd = false ∧ p.faultInd = false) →
    t.mgp.events = startEvents planLoaded t.plan.holdOff s
  own : ∀ side, let cut := (s.monAt side).rawFault && t.plan.holdOff = 0
    t.nrv.own.get side =
      some ⟨if cut then .cut else .clear, false, false, if cut && t.ident.isSome then 1 else 0, false, none⟩
  view : ∀ i, t.ident = some i → t.nrv.ring.length = i.ring ∧ t.nrv.segments = segmentMap t.nrv.ring ∧
    (∀ side, t.nrv.refresh.get side = arm s t.plan.refresh) ∧
    ∀ span e, t.nrv.ring[span]? = some e → e.westEnd = none ∧ e.eastEnd = none ∧ e.locked = false ∧ e.degraded = false ∧
      e.status = if [Side.east, .west].any fun side => i.span side = span && (s.monAt side).rawFault && t.plan.holdOff = 0
        then .failed else .unknown
  stranger : t.ident = none → t.nrv.ring = s.nrv.ring ∧ t.nrv.refresh = s.nrv.refresh
  handed : (∀ side, (s.monAt side).rawFault = false ∨ t.plan.holdOff ≠ 0) → t.toCcl = s.toCcl ∧ t.toDce = s.toDce
  relays : t.nrv.relay = s.nrv.relay ∧ t.nrv.guards = s.nrv.guards ∧ t.nrv.restartSent = s.nrv.restartSent

/-- What either end of a load leaves besides the plan: the commands, the clock and the Management Port's other registers as
they were, PlanLoaded as the load's first event, the links ready to start (01 R12, 04 R46), and the monitors and the Ring View
started, from the values that a reset leaves the monitors (03 R29). -/
structure LoadEnded (mode : Mode) (clamped discarded : Nat) (cause : ListenCause) (s t : State) : Prop where
  pending : t.pending = s.pending
  rstnLow : t.rstnLow = s.rstnLow
  powerOnDue : t.powerOnDue = s.powerOnDue
  clock : t.clock = s.clock
  rx : t.mgp.rx = s.mgp.rx
  owed : t.mgp.owed = s.mgp.owed
  resetDue : t.mgp.resetDue = s.mgp.resetDue
  modeNow : t.pld.mode = mode
  clampedNow : t.pld.clamped = clamped
  discardedNow : t.pld.discarded = discarded
  causeNow : t.pld.listenCause = cause
  load : t.pld.load = .none
  kept : t.pld.demotions = s.pld.demotions ∧ t.pld.frozen = s.pld.frozen ∧ t.pld.resetCause = s.pld.resetCause ∧
    t.pld.startDelay = s.pld.startDelay
  posted : PostsFrom s.clock (joinEvents s.clock (.planLoaded mode clamped discarded cause) s.mgp.events) t.mgp.events
  links : ∀ side, ({ s.linkAt side with
    topRate := some t.plan.topRate, rate := some t.plan.topRate, hailSeq := arm s 0 } : Link).Offered (t.linkAt side)
  reports : ∀ side, ∃ r, t.nrv.own.get side = some r ∧ r.linkUp = false
  started : (∀ side, s.monAt side = .reset (s.monAt side).light (s.monAt side).lock) →
    BlocksStarted (.planLoaded mode clamped discarded cause) s t

/-- 05 R74 to R79: after an event on the reports of some spans, those entries' derived values and the segment map are as the
reports give them, the other entries as they were, and the changes have been handed on, with the restart of a node when the
event was one: to the Circuit Logic as one hand-off, to the Detour Claim Engine the restart first. -/
structure ViewUpdated (spans : List Nat) (restart : Option Nat) (s t : State) : Prop where
  derived : ∀ i ∈ spans, ∀ e, t.nrv.ring[i]? = some e →
    e.status = deriveStatus (spanReports t i).1 (spanReports t i).2 ∧
    e.locked = deriveLocked (spanReports t i).1 (spanReports t i).2 ∧
    e.degraded = deriveDegraded (spanReports t i).1 (spanReports t i).2
  others : ∀ i, i ∉ spans → t.nrv.ring[i]? = s.nrv.ring[i]?
  segments : t.nrv.segments = segmentMap t.nrv.ring
  own : t.nrv.own = s.nrv.own
  toDce : t.toDce =
    s.toDce ++ (restart.map DceHand.restart).toList ++ (spanChanges spans s t).filterMap SpanChange.toDce
  toCcl : t.toCcl =
    s.toCcl ++
      (if restart = none ∧ spanChanges spans s t = [] ∧ mapHanded s.nrv.ring t.nrv.ring = false then []
        else [⟨restart, false, spanChanges spans s t,
          if mapHanded s.nrv.ring t.nrv.ring then some t.nrv.segments else none⟩])
  mon : t.mon = s.mon
  frame : Noticed s t

/-- 05 R72 step 3, R82 step 6: a notice taken on one link goes to the other with its hop budget one less, when some is left. -/
def relayed (arrival : Side) (urgent : Bool) (hops : Nat) (f : Frame) (s : State) : State :=
  if hops ≤ 1 then s else offerNotice arrival.other urgent ⟨f.kind, f.body.dropLast ++ [byte (hops - 1)]⟩ s

/-- What a freed entry of a side becomes: Blocked when the side's span is Locked in the Ring View, Free otherwise (08 R124). -/
def freedEntry (s : State) (side : Side) : LaneEntry := if lockedOf s (s.sideSpan side) then .blocked else .free

/-- A claim-family frame offered to a link joins its queue as urgent when the link is in UP, and is lost otherwise (08 R143). -/
def offered (side : Side) (f : Frame) (s : State) : State :=
  if (s.linkAt side).state = .up then offerUp side true f s else s

/-- 10 R167 to R170: a circuit turns home from a lane: Add/Drop is asked for on the working lane and taken off the lane it
leaves, its IDLE port takes a free slot and starts to step home, and it is in REVERTING. -/
structure TurnsHome (c : Circuit) (lane : Nat) (s t : State) : Prop where
  circuits : t.circuits = s.circuits.map fun old => if old.id = c.id then
    { c with
      state := .reverting, reason := .none, detour := some lane, parked := none, waitToRestore := none,
      claimTimeout := none, retuned := false, inEffect := false } else old
  lsd : t.lsd = (s.lsd.write c.workSide c.lane (.addDrop c.portNo) (some c.id)).undo c.detourSide lane (.addDrop c.portNo) none
  port : portAt t c.portNo = { portAt s c.portNo with target := some c.lane, request := .step, state := .stepping }
  events : t.mgp.events = joinEvents s.clock (.circuitState c.id .reverting c.state .none) s.mgp.events
  queue : t.queue = s.queue
  pld : t.pld = s.pld
  clock : t.clock = s.clock
  nrv : t.nrv = s.nrv
  mon : t.mon = s.mon

/-- The Release of a head's attempt or detour (08 R127, R133). -/
def releaseOf (s : State) (c : Circuit) (lane : Nat) : Frame :=
  ⟨.release, bytes2 c.id ++ [byte c.a, byte c.z, byte c.detourDir.code, byte lane, byte c.tag,
    byte (hopsToTail s (c.attempted lane))]⟩

/-- 08 R133: a head's attempt or detour on a lane is withdrawn: its matching entry is freed, no other entry changes, and a
Release goes along the arc. -/
structure Withdrawn (c : Circuit) (lane : Nat) (s t : State) : Prop where
  entry : entryMatches s c.detourDir lane c.id c.a c.tag = true →
    laneEntry t c.detourDir lane = some (freedEntry s c.detourDir)
  others : ∀ side x, (side, x) ≠ (c.detourDir, lane) → laneEntry t side x = laneEntry s side x
  release : t.link = (offered c.detourDir (releaseOf s c lane) s).link

/-- 10 R167: a head on its detour lane starts to revert: its detour is withdrawn and it turns home. -/
structure Reverts (c : Circuit) (lane : Nat) (s t : State) : Prop extends TurnsHome c lane s t, Withdrawn c lane s t

/-- The entries of one attempt at this node are freed: those that match it, and no other (08 R139, R140, R144). -/
structure FreesAttempt (lane id head tag : Nat) (s t : State) : Prop where
  freed : ∀ side, entryMatches s side lane id head tag = true → laneEntry t side lane = some (freedEntry s side)
  others : ∀ side x, x ≠ lane ∨ entryMatches s side lane id head tag = false → laneEntry t side x = laneEntry s side x

/-- The lane switch with the Pass undone on a side where an entry of the attempt was Held at a transit (08 R138). -/
def undoPass (s : State) (side : Side) (lane id head tag : Nat) (l : Lsd) : Lsd :=
  match laneEntry s side lane with
  | some (.held x) => if x.matches id head tag && isTransit s x then l.undo side lane .pass none else l
  | _ => l

/-- A port that stands away from a lane: its retune there takes steps. -/
abbrev standsAway (s : State) (port lane : Nat) : Prop := (portAt s port).state = .idle ∧ (portAt s port).present ≠ some lane

/-- The port can start to step at once: it is one of the part's ports, IDLE on another lane, not waiting, the lane is one of the
48, and a slot is free (09 R155, R158). -/
abbrev mayStepAtOnce (s : State) (port lane : Nat) : Prop :=
  s.tpc.ports.length = 12 ∧ port < 12 ∧ lane < 48 ∧ (portAt s port).state = .idle ∧ (portAt s port).present ≠ some lane ∧
    isWaiting s port = false ∧ freeSlotIndex s ≠ none

/-- The commands that come as command frames (11 R180). -/
def isCommandFrame : Instr → Bool
  | .statusQuery _ => true
  | .spanQuery _ => true
  | .circuitQuery _ => true
  | .circuitFind _ => true
  | .laneQuery _ => true
  | .portQuery _ => true
  | .planQuery _ => true
  | .circuitRequestPin _ => true
  | .circuitRequestForced _ => true
  | .circuitRequestManual _ => true
  | .circuitRequestReturn _ => true
  | .circuitRequestClear _ => true
  | .setForcedOut _ => true
  | .clearForcedOut _ => true
  | .setSparesLocked _ => true
  | .clearSparesLocked _ => true
  | .demote _ => true
  | .restorePlan _ => true
  | .freezePlan _ => true
  | .rehomePort _ => true
  | .loopTest _ => true
  | .fetchEvents _ => true
  | .warmReset _ => true
  | .badFrame _ => true
  | _ => false

/-- The frame is judged before its code is (11 R181 steps 1 to 3), or is a Status Query: it is answered in START too. -/
def answeredInStart : Instr → Bool
  | .statusQuery _ => true
  | .badFrame _ => true
  | _ => false

/-- The frame's parameters do not decode (11 R181 step 5). -/
def paramsBad : Instr → Bool
  | .statusQuery p => (noParams p).isNone
  | .spanQuery p => (byteParam p).isNone
  | .circuitQuery p => (idParam p).isNone
  | .circuitFind p => (findParams p).isNone
  | .laneQuery p => (laneParams p).isNone
  | .portQuery p => (portParam p).isNone
  | .planQuery p => (idParam p).isNone
  | .circuitRequestPin p => (requestParams 0x01 p).isNone
  | .circuitRequestForced p => (requestParams 0x02 p).isNone
  | .circuitRequestManual p => (requestParams 0x03 p).isNone
  | .circuitRequestReturn p => (requestParams 0x04 p).isNone
  | .circuitRequestClear p => (requestParams 0x05 p).isNone
  | .setForcedOut p => (flagParams 0x00 0x01 p).isNone
  | .clearForcedOut p => (flagParams 0x00 0x00 p).isNone
  | .setSparesLocked p => (flagParams 0x01 0x01 p).isNone
  | .clearSparesLocked p => (flagParams 0x01 0x00 p).isNone
  | .demote p => (demoteParams p).isNone
  | .restorePlan p => (noParams p).isNone
  | .freezePlan p => (noParams p).isNone
  | .rehomePort p => (portParam p).isNone
  | .loopTest p => (sideParam p).isNone
  | .fetchEvents p => (noParams p).isNone
  | .warmReset p => (noParams p).isNone
  | _ => false

/-- Nothing waits to be taken inside the step: no report between blocks, and no entry of the claim queue that the free
window slots could serve (06 R93, Log 5). -/
abbrev Settled (s : State) : Prop := settleOnce s = none

/-- The Management Port takes commands: the part is out of reset and of START, no response is owed and no command reset is
due (11 R181, R182). -/
abbrev State.takesCommands (s : State) : Prop :=
  s.rstnLow = false ∧ s.mgp.owed = [] ∧ s.mgp.resetDue = false ∧ s.pld.mode ≠ .start

end Sys2Proof.Machine
end

