-- ==== Sys2Proof/Certificates/Slice0/Obligations.lean ====
section
/-! DEFINITION. The statements for the provers, block by block. OBLIGATIONS.json lists each with the rules it rests on;
Safety.lean holds the laws and the frames they speak of. -/

open Sys2Proof Sys2Proof.Machine

/-! ## The device -/

/-- A step takes the command at the front of the queue and executes it on the state with the queue's rest; with no command
waiting the block idles (the idling is the model's choice, Log 3). -/
def Obligations.StepExecutesTheFrontCommand : Prop :=
  (∀ (c : Instr) (rest : List Instr) (s : State),
    step { s with pending := c :: rest } = exec c { s with pending := rest }) ∧
  (∀ s : State, s.pending = [] → step s = .next s)

/-- Every command answers a next state, and no command touches the queue of waiting commands: the spec gives every command an
effect in every state, a command whose event cannot occur changing nothing (the model's choice, Log 2). -/
def Obligations.EveryCommandAnswersNext : Prop :=
  ∀ (c : Instr) (s : State), ∃ t, exec c s = .next t ∧ t.pending = s.pending

/-- The state after reset satisfies the laws. -/
def Obligations.ResetIsLawful : Prop := Lawful State.reset

/-- Every step keeps the laws: the event queue's bound, marker and stamps; the clock's range; the ranges of the links'
registers and queues, with nothing queued outside UP; distinct circuit ids and at most 8 window slots in use; an attempt count
of at most 3 and the wait-to-restore deadline armed exactly in WAIT_RESTORE; the claim queue in order of key; the Spare Lane
Map over lanes B to 47 alone; at most 4 ports in HOMING or STEPPING, each with one slot, and lanes of ports in 0 to 47. (That
a power-on reset waits under a low RSTN alone is the model's form of R4, Log 6.) -/
def Obligations.EveryStepKeepsTheLaws : Prop := ∀ s t : State, Lawful s → step s = .next t → Lawful t

/-- While RSTN is held low the part stays in reset: every command but the resets its release brings and the levels of input
pins leaves the state as it is (the model's choice of commands, Log 6). -/
def Obligations.HeldResetIgnoresCommands : Prop :=
  ∀ (c : Instr) (s : State), s.rstnLow = true → actsInReset c = false → exec c s = .next s

/-! ## Resets, clock, deadlines (01, 02) -/

/-- The values that the manual gives for a power-on reset. -/
def Obligations.ResetGivesTheManualsValues : Prop :=
  let r := State.reset
  r.clock = 0 ∧
  r.pld = ⟨.start, none, none, [], false, .powerOn, 0, 0, .none, some 5000, .none⟩ ∧
  (∀ side, (r.monAt side).state = .clear ∧ (r.monAt side).own = .clear ∧ (r.monAt side).declared = none ∧
    (r.monAt side).windowCount = 0 ∧ (r.monAt side).badRun = 0 ∧ (r.monAt side).goodRun = 0 ∧
    (r.monAt side).degraded = false ∧ (r.monAt side).forcedOut = false ∧ (r.monAt side).sparesLocked = false ∧
    (r.monAt side).holdOff = none ∧ (r.monAt side).soak = none ∧ (r.monAt side).window = none) ∧
  (∀ side, (r.linkAt side).state = .down ∧ (r.linkAt side).topRate = none ∧ (r.linkAt side).rate = none ∧
    (r.linkAt side).hailCount = 0 ∧ (r.linkAt side).lastBurstEnd = none ∧ (r.linkAt side).readyCount = 0 ∧
    (r.linkAt side).errorRun = 0 ∧ (r.linkAt side).holding = [] ∧ (r.linkAt side).depth = 0 ∧
    (r.linkAt side).sending = none ∧ (r.linkAt side).txOverflow = 0 ∧ (r.linkAt side).checkErrors = 0 ∧
    (r.linkAt side).framingErrors = 0 ∧ (r.linkAt side).overruns = 0 ∧ (r.linkAt side).loopSent = 0 ∧
    (r.linkAt side).loopReturned = 0 ∧ (r.linkAt side).hailSeq = none) ∧
  (r.nrv.ring = [] ∧ r.nrv.own = ⟨none, none⟩ ∧ r.nrv.refresh = ⟨none, none⟩ ∧ r.nrv.restartSent = ⟨false, false⟩) ∧
  (r.circuits = [] ∧ r.queue = []) ∧
  (∀ side, r.lsd.table.get side = List.replicate 48 ⟨.block, none, .inEffect, none, []⟩) ∧
  (r.lsd.bus = [] ∧ r.lsd.transfer = none) ∧
  (r.tpc.ports.length = 12 ∧ ∀ p ∈ r.tpc.ports, p.state = .unhomed ∧ p.present = none ∧ p.target = none ∧
    p.request = .none ∧ p.homeCount = 0 ∧ p.owner = none) ∧
  (r.tpc.slots = List.replicate 4 ⟨none, none⟩ ∧ r.tpc.waiting = []) ∧
  (r.mgp.owed = [] ∧ r.mgp.events = [])

/-- A power-on reset leaves the reset state; a supply that becomes stable under a low RSTN defers it to RSTN's release. A pin
reset, and a command reset once it is due, leave the same but for the demotion list and the frozen flag, which are kept, and
the image read, which begins at once. These clauses are the model's choice: that every reset keeps the levels of the input
pins and the waiting commands (Log 1); that RSTN going low is a command that sets a mark and changes nothing else, that a pin
reset is taken in any state, and the marks of a deferred power-on reset (Log 6); the mark that a command reset is due (Log 7).
-/
def Obligations.ResetsLeaveTheResetState : Prop :=
  let warm (cause : ResetCause) (s : State) : State :=
    afterReset ⟨.start, none, none, s.pld.demotions, s.pld.frozen, cause, 0, 0, .none, none, .header⟩ s
  (∀ s : State, s.rstnLow = false ∨ s.powerOnDue = true →
    exec .powerOnReset s = .next (afterReset State.reset.pld s)) ∧
  (∀ s : State, s.rstnLow = true → s.powerOnDue = false → exec .powerOnReset s = .next { s with powerOnDue := true }) ∧
  (∀ s : State, s.powerOnDue = true → exec .pinReset s = .next (afterReset State.reset.pld s)) ∧
  (∀ s : State, s.powerOnDue = false → exec .pinReset s = .next (warm .resetPin s)) ∧
  (∀ s : State, s.rstnLow = false → s.mgp.resetDue = true → exec .commandReset s = .next (warm .command s)) ∧
  (∀ s : State, exec .rstnAsserted s = .next { s with rstnLow := true })

/-- R18: each reset sets its cause, nothing else changes it, and Status Query reports it in every mode. (A power-on reset that
a low RSTN defers is taken at its release, which a second POWER_ON_RESET or a PIN_RESET is by the model's choice, Log 6.) -/
def Obligations.ResetCauseTellsTheReset : Prop :=
  (∀ s : State, s.rstnLow = false ∨ s.powerOnDue = true →
    ∃ t, exec .powerOnReset s = .next t ∧ t.pld.resetCause = .powerOn) ∧
  (∀ s : State, ∃ t, exec .pinReset s = .next t ∧
    t.pld.resetCause = if s.powerOnDue then .powerOn else .resetPin) ∧
  (∀ s : State, s.rstnLow = false → s.mgp.resetDue = true →
    ∃ t, exec .commandReset s = .next t ∧ t.pld.resetCause = .command) ∧
  (∀ (c : Instr) (s t : State), (c = .powerOnReset → s.rstnLow = true ∧ s.powerOnDue = false) → c ≠ .pinReset →
    c ≠ .commandReset → exec c s = .next t → t.pld.resetCause = s.pld.resetCause) ∧
  (∀ s : State, s.rstnLow = false → s.mgp.owed = [] → s.mgp.resetDue = false →
    exec (.statusQuery []) s = .next (owe ⟨.done, statusData s, false⟩ s) ∧
    (statusData s)[2]? = some (match s.pld.resetCause with
      | .powerOn => (0x00 : Byte)
      | .resetPin => 0x01
      | .command => 0x02))

/-- R17: Freeze Plan sets the frozen flag, a power-on reset clears it, a warm reset keeps it; while it is set Demote and
Restore Plan are refused with Frozen and every other command leaves flag and demotion list alone; Status Query reports it. (A
power-on reset that a low RSTN defers is taken at its release, Log 6.) -/
def Obligations.FreezeHoldsTheDemotions : Prop :=
  (∀ s : State, s.takesCommands →
    exec (.freezePlan []) s = .next (owe ⟨.done, [], false⟩ (s.setPld { s.pld with frozen := true }))) ∧
  (∀ s : State, s.rstnLow = false ∨ s.powerOnDue = true → ∃ t, exec .powerOnReset s = .next t ∧ t.pld.frozen = false) ∧
  (∀ s : State, ∃ t, exec .pinReset s = .next t ∧ t.pld.frozen = (!s.powerOnDue && s.pld.frozen)) ∧
  (∀ s : State, ∃ t, exec .commandReset s = .next t ∧ t.pld.frozen = s.pld.frozen) ∧
  (∀ (s : State) (p : List Byte) (d : Nat × Machine.Class), s.takesCommands → s.pld.frozen = true → demoteParams p = some d →
    exec (.demote p) s = .next (owe ⟨.frozen, [], false⟩ s)) ∧
  (∀ s : State, s.takesCommands → s.pld.frozen = true →
    exec (.restorePlan []) s = .next (owe ⟨.frozen, [], false⟩ s)) ∧
  (∀ (c : Instr) (s t : State), (c = .powerOnReset → s.rstnLow = true ∧ s.powerOnDue = false) →
    (c = .pinReset → s.powerOnDue = false) → s.pld.frozen = true → exec c s = .next t →
    t.pld.frozen = true ∧ t.pld.demotions = s.pld.demotions) ∧
  (∀ s : State, (statusData s)[9]? = some (if s.pld.frozen then (0x01 : Byte) else 0x00))

/-- R19: every reset sets the count to 0, a tick adds one in every mode up to the largest value, where the count stays, and no
other command changes it. (A power-on reset that a low RSTN defers is taken at its release, Log 6.) -/
def Obligations.ClockCountsTicksAlone : Prop :=
  (∀ s : State, s.rstnLow = false ∨ s.powerOnDue = true → ∃ t, exec .powerOnReset s = .next t ∧ t.clock = 0) ∧
  (∀ s : State, ∃ t, exec .pinReset s = .next t ∧ t.clock = 0) ∧
  (∀ s : State, s.rstnLow = false → s.mgp.resetDue = true → ∃ t, exec .commandReset s = .next t ∧ t.clock = 0) ∧
  (∀ s : State, s.rstnLow = false → s.clock < 0xFFFFFFFFFFFF →
    exec .clockTick s = .next { s with clock := s.clock + 1 }) ∧
  (∀ s : State, s.rstnLow = false → s.clock = 0xFFFFFFFFFFFF → exec .clockTick s = .next s) ∧
  (∀ (c : Instr) (s t : State), (c = .powerOnReset → s.rstnLow = true ∧ s.powerOnDue = false) → c ≠ .pinReset →
    c ≠ .commandReset → c ≠ .clockTick → exec c s = .next t → t.clock = s.clock)

/-- A deadline is armed at the clock plus its duration, held at the largest count; armed, it is due from its value on;
disarmed, never; a duration of 0, or any at the largest count, is due at once. -/
def Obligations.DeadlinesArmAndFallDue : Prop :=
  ∀ (s : State) (duration value : Nat),
    arm s duration = some (min (s.clock + duration) 0xFFFFFFFFFFFF) ∧
    due s none = false ∧
    (due s (some value) = true ↔ value ≤ s.clock) ∧
    due s (arm s 0) = true ∧
    (s.clock = 0xFFFFFFFFFFFF → due s (arm s duration) = true)

/-! ## The plan (01) -/

/-- When the start delay is due, its deadline is disarmed and the image read begins; a header that passes every check is kept
and the read goes on; nothing else changes. The structural checks are made in the manual's order, and the first that fails is
the cause; 5Ah and the byte sum are judged on the whole image. -/
def Obligations.HeaderIsReadAndChecked : Prop :=
  (∀ s : State, s.rstnLow = false → due s s.pld.startDelay = true →
    exec .startDelayExpiry s = .next (s.setPld { s.pld with startDelay := none, load := .header })) ∧
  (∀ (s : State) (header : List Byte), s.rstnLow = false → s.pld.load = .header → header.length = 32 →
    headerFault header = .none →
    exec (.headerReadComplete header) s = .next (s.setPld { s.pld with load := .rest header })) ∧
  (∀ header : List Byte, headerFault header = firstFailed (headerChecks header)) ∧
  (∀ image : List Byte, trailerFault image =
    firstFailed [(.trailer, field1 image (image.length - 2) = 0x5A), (.check, byteSum image = 0)])

/-- A failed check of the header, or of the whole image, ends the load in LISTEN with that check as the cause, no circuit, no
setting and no homing asked for. -/
def Obligations.FailedCheckEndsInListen : Prop :=
  let listens (header : List Byte) (cause : ListenCause) (s t : State) : Prop :=
    LoadEnded .listen (headerClamped header) 0 cause s t ∧ t.pld.plan = some (headerPlan header) ∧
    t.circuits = s.circuits ∧ t.queue = s.queue ∧ t.lsd = s.lsd ∧ t.tpc = s.tpc ∧ t.work = s.work ∧
    ∀ side, t.lanes.get side = List.replicate (48 - (headerPlan header).spareBase) .free
  (∀ (s : State) (header : List Byte), s.rstnLow = false → s.pld.load = .header → header.length = 32 →
    headerFault header ≠ .none →
    ∃ t, exec (.headerReadComplete header) s = .next t ∧ listens header (headerFault header) s t) ∧
  (∀ (s : State) (header rest : List Byte), s.rstnLow = false → s.pld.load = .rest header →
    rest.length = hLength header - 32 → trailerFault (header ++ rest) ≠ .none →
    ∃ t, exec (.imageReadComplete rest) s = .next t ∧ listens header (trailerFault (header ++ rest)) s t)

/-- An image that passes every check ends the load in RUN: the plan with its clamped spans, one record for each accepted
circuit record, in ascending id (a discarded record's clamp is not counted: the model's choice, Log 12). From the blocks a
reset leaves, with no home or fault indication standing, each record takes the class that the demotion list derives; the 96
lane switch writes wait in order, East lanes 0 to 47 and then West: Add/Drop for a working lane's end here, Pass for a
transit, Block otherwise; every bound port has its owner and asks to be homed, the four lowest taking the slots (the lowest
slot first by the model's choice, Log 10) and the others waiting in ascending number; and the Spare Lane Map is Free over lanes B to 47. -/
def Obligations.PassingImageEndsInRun : Prop :=
  ∀ (s : State) (header rest : List Byte) (i : Ident), s.rstnLow = false → s.pld.load = .rest header →
    rest.length = hLength header - 32 → trailerFault (header ++ rest) = .none → headerIdent header = some i →
    let image := header ++ rest
    let base := (headerPlan header).spareBase
    let taken := (List.range (hCount header)).foldl (takeRecord i base image) ⟨[], 0, 0⟩
    let spans := (List.range i.ring).map (spanRecord image)
    let corrected := correctAll base taken.accepted
    ∃ t, exec (.imageReadComplete rest) s = .next t ∧
      LoadEnded .run (headerClamped header + (spans.map (·.2)).sum + taken.clamped + corrected.2) taken.discarded .none s t ∧
      t.pld.plan = some { headerPlan header with spans := spans.map (·.1) } ∧
      t.circuits.map (·.id) = corrected.1.map (·.id) ∧ (t.circuits.map (·.id)).Pairwise (· < ·) ∧
      (∀ ready, s.circuits = [] → s.queue = [] → s.work = [] → s.tpc = State.reset.tpc → s.lsd = .reset ready →
        let records := corrected.1.map fun c => { c with cls :=
          ((s.pld.demotions.find? fun d => d.id = c.id).map fun d =>
            if d.cls.rank < c.planClass.rank then d.cls else c.planClass).getD c.planClass }
        let setting := workingSetting records
        let messages : List BusMessage :=
          [Side.east, .west].flatMap fun side => (List.range 48).map fun lane => ⟨side, lane, setting side lane⟩
        let owner (port : Nat) : Option Nat :=
          (records.find? fun c => c.role ≠ .transit ∧ c.port = some port).map (·.id)
        let bound := (List.range 12).filter fun port => (owner port).isSome
        t.circuits = records ∧ t.queue = [] ∧
        (∀ c ∈ records, ∀ side ∈ c.workingSides,
          setting side c.lane = if c.role = .transit then .pass else .addDrop (c.port.getD 0)) ∧
        (∀ side lane, (∀ c ∈ records, c.lane = lane → side ∉ c.workingSides) → setting side lane = .block) ∧
        (∀ side lane, lane < 48 → t.lsd.record side lane = ⟨.block, some (setting side lane), .waiting, none, []⟩) ∧
        (if ready then t.lsd.transfer = messages.head? ∧ t.lsd.bus = messages.tail
          else t.lsd.transfer = none ∧ t.lsd.bus = messages) ∧
        (∀ port, port < 12 → portAt t port =
          { Port.reset false false with
            owner := owner port
            request := if (owner port).isSome then .home else .none
            state := if port ∈ bound.take 4 then .homing else .unhomed }) ∧
        t.tpc.slots = (bound.take 4).map (fun port => ⟨some port, arm s t.plan.stepInterval⟩) ++
          List.replicate (4 - bound.length) ⟨none, none⟩ ∧
        t.tpc.waiting = bound.drop 4 ∧
        ∀ side, t.lanes.get side = List.replicate (48 - base) .free)

/-- Each header field with a range in R8 is taken to the nearest limit of it and converted to ticks; a rate code that names no
rate becomes Slow; the clamped count is the number of fields replaced. Node number, ring size and spare base are not among
them: the spare base in use is the nearest value of 24 to 44 (R14), and is not counted. -/
def Obligations.HeaderFieldsAreClamped : Prop :=
  ∀ h : List Byte,
    let p := headerPlan h
    let replaced (low high v : Nat) : Nat := if nearest low high v = v then 0 else 1
    p.holdOff = nearest 0 100 (field1 h 12) * 1000 ∧
    p.soak = nearest 1 50 (field1 h 13) * 10000 ∧
    p.waitToRestore = nearest 3 72 (field1 h 14) * 1000000 ∧
    p.degradeThreshold = nearest 1 65535 (field2 h 16) ∧
    p.degradeWindows = nearest 1 10 (field1 h 15) ∧
    p.refresh = nearest 1 50 (field1 h 18) * 10000 ∧
    p.claimTimeout = nearest 5 250 (field1 h 19) * 1000 ∧
    p.transitPenalty = nearest 0 255 (field1 h 20) ∧
    p.passCost = nearest 0 99 (field1 h 21) ∧
    p.stepInterval = nearest 1 100 (field1 h 22) * 10 ∧
    p.settle = nearest 1 50 (field1 h 23) * 100 ∧
    p.spareBase = nearest 24 44 (field1 h 10) ∧
    p.topRate = (if field1 h 24 = 0 then .fast else if field1 h 24 = 1 then .middle else .slow) ∧
    headerClamped h = replaced 0 100 (field1 h 12) + replaced 1 50 (field1 h 13) + replaced 3 72 (field1 h 14) +
      replaced 1 65535 (field2 h 16) + replaced 1 10 (field1 h 15) + replaced 1 50 (field1 h 18) +
      replaced 5 250 (field1 h 19) + replaced 0 255 (field1 h 20) + replaced 0 99 (field1 h 21) +
      replaced 1 100 (field1 h 22) + replaced 1 50 (field1 h 23) + (if field1 h 24 ≤ 2 then 0 else 1)

/-- Taking circuit records in image order, no two accepted ones clash, each accepted one passes the checks on its own
fields, and every record is either accepted or counted as discarded. A record decodes exactly when its fields pass the checks
on them, to the values of its fields. One that decodes and clashes with none accepted before it is accepted, next in order;
one that does not decode, or that clashes, is discarded: nothing is accepted for it and the discarded count goes up by one. -/
def Obligations.AcceptedRecordsNeverClash : Prop :=
  ∀ (i : Ident) (base n : Nat) (image : List Byte),
    let r := (List.range n).foldl (takeRecord i base image) ⟨[], 0, 0⟩
    r.accepted.length + r.discarded = n ∧
    (r.accepted.Pairwise fun old new => new.id ≠ old.id ∧
      (new.isEnd = true → old.isEnd = true → new.port ≠ old.port) ∧
      (new.lane = old.lane → ∀ side ∈ new.workingSides, side ∉ old.workingSides)) ∧
    (∀ c ∈ r.accepted, c.a < i.ring ∧ c.z < i.ring ∧ c.a ≠ c.z ∧ c.lane < base ∧ c.priority ≤ 7 ∧ c.bundle ≤ 15 ∧
      roleAt i c.a c.z c.dir = some c.role ∧ (c.isEnd = true → ∃ p ≤ 11, c.port = some p) ∧ c.state = .working ∧
      c.allowance ≤ 9999) ∧
    ∀ k < n, let place := 32 + 4 * i.ring + 16 * k
      let until' (k : Nat) := (List.range k).foldl (takeRecord i base image) ⟨[], 0, 0⟩
      let before := (until' k).accepted
      let clashes (c old : Circuit) : Prop := c.id = old.id ∨ c.isEnd = true ∧ old.isEnd = true ∧ c.port = old.port ∨
        c.lane = old.lane ∧ ∃ side ∈ c.workingSides, side ∈ old.workingSides
      (until' (k + 1)).accepted <+: r.accepted ∧
      (∀ c, decodeRecord i base image place = some c → (∀ old ∈ before, ¬ clashes c old) →
        (until' (k + 1)).accepted = before ++ [c] ∧ (until' (k + 1)).discarded = (until' k).discarded) ∧
      (decodeRecord i base image place = none ∨
          (∃ c, decodeRecord i base image place = some c ∧ ∃ old ∈ before, clashes c old) →
        (until' (k + 1)).accepted = before ∧ (until' (k + 1)).discarded = (until' k).discarded + 1) ∧
      ((∃ c, decodeRecord i base image place = some c) → field1 image (place + 2) < i.ring ∧
        field1 image (place + 3) < i.ring ∧ field1 image (place + 2) ≠ field1 image (place + 3) ∧
        field1 image (place + 4) ≤ 1 ∧ field1 image (place + 6) ≤ 2 ∧ field1 image (place + 10) ≤ 1 ∧
        field1 image (place + 8) ≤ 7 ∧ field1 image (place + 9) ≤ 15 ∧ field1 image (place + 5) < base ∧
        ∃ dir role, Side.ofCode (field1 image (place + 4)) = some dir ∧
          roleAt i (field1 image (place + 2)) (field1 image (place + 3)) dir = some role ∧
          (role ≠ .transit → field1 image (place + 11) ≤ 11)) ∧
      ∀ dir cls role, field1 image (place + 2) < i.ring → field1 image (place + 3) < i.ring →
        field1 image (place + 2) ≠ field1 image (place + 3) → Side.ofCode (field1 image (place + 4)) = some dir →
        Class.ofCode (field1 image (place + 6)) = some cls → field1 image (place + 10) ≤ 1 →
        field1 image (place + 8) ≤ 7 → field1 image (place + 9) ≤ 15 → field1 image (place + 5) < base →
        roleAt i (field1 image (place + 2)) (field1 image (place + 3)) dir = some role →
        (role ≠ .transit → field1 image (place + 11) ≤ 11) →
        ∃ c, decodeRecord i base image place = some c ∧ c.id = field2 image place % 4096 ∧
          c.a = field1 image (place + 2) ∧ c.z = field1 image (place + 3) ∧ c.dir = dir ∧
          c.lane = field1 image (place + 5) ∧ c.planClass = cls ∧ c.priority = field1 image (place + 8) ∧
          c.bundle = field1 image (place + 9) ∧ (c.revertive = true ↔ field1 image (place + 10) = 1) ∧ c.role = role ∧
          (role ≠ .transit → c.port = some (field1 image (place + 11))) ∧
          c.ceiling = field2 image (place + 12) ∧ c.allowance = min (field2 image (place + 14)) 9999

/-- The corrections leave the accepted records in ascending id, a preplanned lane exactly at the Preplanned ones and there
inside B to 47, and bundles of one pair of ends and one direction with at most 8 members. -/
def Obligations.CorrectionsMakeTheTableSound : Prop :=
  ∀ (base : Nat) (accepted : List Circuit), (accepted.map (·.id)).Nodup →
    let table := (correctAll base accepted).1
    (table.map (·.id)).Perm (accepted.map (·.id)) ∧ (table.map (·.id)).Pairwise (· < ·) ∧
    (∀ c ∈ table, (c.planClass = .preplanned → ∃ lane, c.preplanned = some lane ∧ base ≤ lane ∧ lane < 48) ∧
      (c.planClass ≠ .preplanned → c.preplanned = none)) ∧
    (∀ c ∈ table, ∀ d ∈ table, c.bundle = d.bundle → c.bundle ≠ 0 → c.a = d.a ∧ c.z = d.z ∧ c.dir = d.dir) ∧
    (∀ b, b ≠ 0 → (table.filter fun c => c.bundle = b).length ≤ 8)

/-! ## Span Monitors (03) -/

/-- An indication that leaves the raw fault as it was, or that comes in START or in reset, is recorded and nothing more (what
START records is the model's choice, Log 1). The onset of a raw fault: in CLEAR the hold-off runs, or with a hold-off of 0
the monitor enters CUT and declares Cut; in SOAK it enters CUT again. The end of one in HOLDOFF brings CLEAR back, with the
own condition as the degrade indication gives it. -/
def Obligations.RawFaultByState : Prop :=
  ∀ (s : State) (side : Side) (level : Bool) (c : Instr) (m : Monitor),
    (c = .lightChange side level ∧ m = { s.monAt side with light := level } ∨
      c = .frameLockChange side level ∧ m = { s.monAt side with lock := level }) →
    let cut := { m with state := .cut, own := .cut, holdOff := none, soak := none }
    (s.running = false ∨ m.rawFault = (s.monAt side).rawFault → exec c s = .next (s.setMon side m)) ∧
    (s.running = true → (s.monAt side).rawFault = false → m.rawFault = true →
      (m.state = .clear → s.plan.holdOff ≠ 0 →
        ∃ t, exec c s = .next t ∧ Declares side { m with state := .holdoff, holdOff := arm s s.plan.holdOff } s t) ∧
      (m.state = .clear → s.plan.holdOff = 0 → ∃ t, exec c s = .next t ∧ Declares side cut s t) ∧
      (m.state = .soak → ∃ t, exec c s = .next t ∧ Declares side cut s t)) ∧
    (s.running = true → (s.monAt side).rawFault = true → m.rawFault = false → m.state = .holdoff →
      ∃ t, exec c s = .next t ∧
        Declares side
          { m with state := .clear, own := if m.degraded then .degraded else .clear, holdOff := none, soak := none } s t)

/-- R34: the end of the raw fault in CUT arms the clear soak and enters SOAK; the own condition stays as it is, and nothing is
declared where the declared condition is already what the flag and the own condition give. -/
def Obligations.RawFaultEndInCutSoaks : Prop :=
  ∀ (s : State) (side : Side) (c : Instr) (m : Monitor), s.running = true → (s.monAt side).rawFault = true →
    m.rawFault = false → m.state = .cut →
    (c = .lightChange side true ∧ m = { s.monAt side with light := true } ∨
      c = .frameLockChange side true ∧ m = { s.monAt side with lock := true }) →
    let soaking := { m with state := .soak, soak := arm s s.plan.soak }
    (∃ t, exec c s = .next t ∧ Declares side soaking s t) ∧
    (m.declared = some m.declares → exec c s = .next (s.setMon side soaking))

/-- The hold-off's expiry in HOLDOFF enters CUT and declares Cut; the clear soak's in SOAK enters CLEAR, with the own condition
as the degrade indication gives it. -/
def Obligations.HoldOffAndSoakExpiries : Prop :=
  ∀ (s : State) (side : Side), s.running = true →
    let m := s.monAt side
    (m.state = .holdoff → due s m.holdOff = true →
      ∃ t, exec (.holdOffExpiry side) s = .next t ∧
        Declares side { m with state := .cut, own := .cut, holdOff := none, soak := none } s t) ∧
    (m.state = .soak → due s m.soak = true →
      ∃ t, exec (.clearSoakExpiry side) s = .next t ∧
        Declares side
          { m with state := .clear, own := if m.degraded then .degraded else .clear, holdOff := none, soak := none } s t)

/-- An errored block adds one to the window count, up to 65,535, in every state of the monitor. At the boundary a window of T
errored blocks or more is bad and lengthens the bad run, another is good and lengthens the good run, each up to D; at D the
degrade indication comes on, or goes off; in CLEAR the own condition follows it; the count restarts and the deadline moves
to the next multiple of 10,000 ticks. -/
def Obligations.ErroredBlocksAreJudgedByWindow : Prop :=
  (∀ (s : State) (side : Side), s.running = true →
    exec (.erroredBlockPulse side) s =
      .next (s.setMon side { s.monAt side with windowCount := min ((s.monAt side).windowCount + 1) 65535 })) ∧
  ∀ (s : State) (side : Side), s.running = true → due s (s.monAt side).window = true →
    let m := s.monAt side
    let limit := s.plan.degradeWindows
    let bad := s.plan.degradeThreshold ≤ m.windowCount
    let badRun := if bad then min (m.badRun + 1) limit else 0
    let goodRun := if bad then 0 else min (m.goodRun + 1) limit
    let degraded := if bad then m.degraded || badRun = limit else m.degraded && goodRun ≠ limit
    ∃ t, exec (.windowBoundaryExpiry side) s = .next t ∧
      Declares side
        { m with
          badRun := badRun, goodRun := goodRun, degraded := degraded,
          own := if m.state = .clear then (if degraded then .degraded else .clear) else m.own,
          windowCount := 0, window := some (min ((s.clock / 10000 + 1) * 10000) 0xFFFFFFFFFFFF) } s t

/-- Setting Forced Out makes the declared condition ForcedOut, clearing it the own condition as it stands; the command is
answered Done. -/
def Obligations.ForcedOutFlagIsDeclared : Prop :=
  ∀ (s : State) (side : Side), s.takesCommands →
    (∃ u, Declares side { s.monAt side with forcedOut := true } s u ∧
      exec (.setForcedOut [byte side.code, 0x00, 0x01]) s = .next (owe ⟨.done, [], false⟩ u)) ∧
    (∃ u, Declares side { s.monAt side with forcedOut := false } s u ∧
      exec (.clearForcedOut [byte side.code, 0x00, 0x00]) s = .next (owe ⟨.done, [], false⟩ u))

/-- A Spares Locked command that changes the flag stores it and reports it to NRV with no event; one that does not changes
nothing; both are answered Done. -/
def Obligations.SparesLockedFlagIsReported : Prop :=
  ∀ (s : State) (side : Side) (set : Bool) (c : Instr), s.takesCommands →
    (c = .setSparesLocked [byte side.code, 0x01, 0x01] ∧ set = true ∨
      c = .clearSparesLocked [byte side.code, 0x01, 0x00] ∧ set = false) →
    ((s.monAt side).sparesLocked = set → exec c s = .next (owe ⟨.done, [], false⟩ s)) ∧
    ((s.monAt side).sparesLocked ≠ set → ∃ u, exec c s = .next (owe ⟨.done, [], false⟩ u) ∧ Noticed s u ∧
      u.monAt side = { s.monAt side with sparesLocked := set } ∧ u.monAt side.other = s.monAt side.other ∧
      u.mgp.events = s.mgp.events ∧
      ∀ r, s.nrv.own.get side = some r → ∃ q, u.nrv.own.get side = some q ∧ q.locked = set ∧ q.linkUp = r.linkUp ∧
        q.condition = (s.monAt side).declared.getD .clear)

/-! ## Span Links (04) -/

/-- Sending a hail: the sequence deadline starts a sequence in DOWN, unless one is being sent, and is re-armed; bursts and
gaps follow one another; the end of the sixth burst ends the sequence and arms the answer guard, and a link that waited in
PACING then begins its first Pace frame and its rate window. A frame already in sending is not touched (that none but the
first Pace frame waits for the sequence's end is the model's inference, Log 8). -/
def Obligations.HailSequenceRuns : Prop :=
  ∀ (s : State) (side : Side), s.running = true →
    let l := s.linkAt side
    (l.state = .down → due s l.hailSeq = true →
      exec (.hailSequenceExpiry side) s = .next (s.setLink side
        (if l.hail.isSome then { l with hailSeq := arm s 10000 }
          else { l with hailSeq := arm s 10000, hail := some ⟨1, false⟩, hailBurst := arm s 100 }))) ∧
    (∀ burst, l.hail = some ⟨burst, true⟩ → due s l.hailBurst = true →
      exec (.hailBurstExpiry side) s =
        .next (s.setLink side { l with hail := some ⟨burst + 1, false⟩, hailBurst := arm s 100 })) ∧
    (∀ burst, burst < 6 → l.hail = some ⟨burst, false⟩ → due s l.hailBurst = true →
      exec (.hailBurstExpiry side) s =
        .next (s.setLink side { l with hail := some ⟨burst, true⟩, hailBurst := arm s 300 })) ∧
    (l.hail = some ⟨6, false⟩ → due s l.hailBurst = true →
      l.state = .down ∨ l.state = .listening ∨ l.state = .failed ∨ l.sending ≠ none →
      exec (.hailBurstExpiry side) s =
        .next (s.setLink side { l with hail := none, hailBurst := none, answerGuard := arm s 1000 })) ∧
    (l.hail = some ⟨6, false⟩ → due s l.hailBurst = true → l.state = .pacing → l.sending = none → l.rateWindow = none →
      ∀ rate, l.rate = some rate →
      exec (.hailBurstExpiry side) s =
        .next (s.setLink side
          { l with
            hail := none, hailBurst := none, answerGuard := arm s 1000, rateWindow := arm s 2000,
            sending := some ⟨⟨.pace, []⟩, rate⟩ })) ∧
    (due s l.answerGuard = true →
      exec (.hailAnswerGuardExpiry side) s = .next (s.setLink side { l with answerGuard := none }))

/-- Receiving a hail in DOWN: a burst that starts less than 1.5 ms after the last one's end sets the hail count to 0; a
burst's end counts it and arms the gap limit; the gap limit's expiry forgets the count. The fourth burst in a row is a hail:
the pacer goes to PACING at its top rate, the follower to LISTENING, and the hail is answered by a sequence unless one is
being sent or the answer guard holds it back, which it does until its expiry is taken (the model's reading of R27, Log 37); no
other side or block changes. -/
def Obligations.ReceivedBurstsMakeAHail : Prop :=
  ∀ (s : State) (side : Side), s.running = true → (s.linkAt side).state = .down →
    let l := s.linkAt side
    (∀ ended, l.lastBurstEnd = some ended → 0 < l.hailCount → s.clock < ended + 150 →
      exec (.receivedBurstStart side) s = .next (s.setLink side { l with hailCount := 0, gapLimit := none })) ∧
    (l.hailCount = 0 ∨ l.lastBurstEnd = none ∨ (∃ ended, l.lastBurstEnd = some ended ∧ ended + 150 ≤ s.clock) →
      exec (.receivedBurstStart side) s = .next (s.setLink side { l with gapLimit := none })) ∧
    (l.hailCount < 3 → exec (.receivedBurstEnd side) s = .next (s.setLink side
      { l with hailCount := l.hailCount + 1, lastBurstEnd := some s.clock, gapLimit := arm s 450 })) ∧
    (due s l.gapLimit = true → exec (.hailGapLimitExpiry side) s = .next (s.setLink side
      { l with hailCount := 0, lastBurstEnd := none, gapLimit := none })) ∧
    (3 ≤ l.hailCount →
      ∃ t, exec (.receivedBurstEnd side) s = .next t ∧ t = s.setLink side (t.linkAt side) ∧
        (t.linkAt side).hailCount = 0 ∧ (t.linkAt side).hailSeq = none ∧ (t.linkAt side).gapLimit = none ∧
        (side = .east → (t.linkAt side).state = .pacing ∧ (t.linkAt side).rate = l.topRate) ∧
        (side = .west → (t.linkAt side).state = .listening ∧ (t.linkAt side).listening = arm s 20000 ∧
          (t.linkAt side).rate = l.rate) ∧
        (if l.hail = none ∧ l.answerGuard = none then
          (t.linkAt side).hail = some ⟨1, false⟩ ∧ (t.linkAt side).hailBurst = arm s 100
        else (t.linkAt side).hail = l.hail ∧ (t.linkAt side).hailBurst = l.hailBurst))

/-- The listening, readying and failed hold expiries bring the link to DOWN, where it hails again 100 ms later; the readying
expiry empties the receive holding. The rate window's expiry in PACING steps down to the next lower rate; below Slow the link
fails and its hold runs. Nothing is posted or reported. -/
def Obligations.WaitingLinksFallBack : Prop :=
  ∀ (s : State) (side : Side), s.running = true →
    let l := s.linkAt side
    let down : Link := { l with
      state := .down, rx := .hunting, sending := none, answerPaces := 0, hailCount := 0, lastBurstEnd := none,
      hailSeq := arm s 10000, rateWindow := none, listening := none, readying := none, failedHold := none,
      silence := none, keepalive := none, loopReturn := none }
    (l.state = .listening → due s l.listening = true →
      exec (.listeningExpiry side) s = .next (s.setLink side down)) ∧
    (l.state = .readying → due s l.readying = true →
      exec (.readyingExpiry side) s = .next (s.setLink side { down with holding := [] })) ∧
    (l.state = .failed → due s l.failedHold = true →
      exec (.failedHoldExpiry side) s = .next (s.setLink side down)) ∧
    (l.state = .pacing → due s l.rateWindow = true →
      let lower (rate : Rate) : Link := { l with rate := some rate, rateWindow := arm s 2000, rx := .hunting }
      (l.rate = some .fast → exec (.rateWindowExpiry side) s = .next (s.setLink side (lower .middle))) ∧
      (l.rate = some .middle → exec (.rateWindowExpiry side) s = .next (s.setLink side (lower .slow))) ∧
      (l.rate = some .slow → exec (.rateWindowExpiry side) s = .next (s.setLink side
        { l with
          state := .failed, rx := .hunting, sending := none, rateWindow := none, failedHold := arm s 100000 })))

/-- A valid Pace frame: in PACING at the current rate, and in LISTENING at a rate up to the top rate, it brings READYING at
its rate, the follower owing three Pace frames, of which a free line begins the first at once, also while a hail sequence runs
on (the model's inference, Log 8); in READYING it sets the ready count to 0; in UP it only counts as heard. -/
def Obligations.PaceFrameByState : Prop :=
  ∀ (s : State) (side : Side) (rate : Rate), s.running = true →
    let l := s.linkAt side
    let readies (owed : Nat) (t : State) : Prop :=
      t = s.setLink side (t.linkAt side) ∧ (t.linkAt side).state = .readying ∧ (t.linkAt side).rate = some rate ∧
      (t.linkAt side).readyCount = 0 ∧ (t.linkAt side).readying = arm s 10000 ∧ (t.linkAt side).rateWindow = none ∧
      (t.linkAt side).listening = none ∧
      (l.sending = none →
        (t.linkAt side).sending = some ⟨⟨if owed = 0 then .ready else .pace, []⟩, rate⟩ ∧
        (t.linkAt side).answerPaces = owed - 1)
    (l.state = .pacing → l.rate = some rate →
      ∃ t, exec (.paceFrameReceived side rate) s = .next t ∧ readies 0 t) ∧
    (∀ top, l.state = .listening → l.topRate = some top → rate.rank ≤ top.rank →
      ∃ t, exec (.paceFrameReceived side rate) s = .next t ∧ readies 3 t) ∧
    (l.state = .readying → l.rate = some rate →
      exec (.paceFrameReceived side rate) s = .next (s.setLink side { l with readyCount := 0 })) ∧
    (l.state = .up → l.rate = some rate →
      exec (.paceFrameReceived side rate) s =
        .next (s.setLink side { l with errorRun := 0, silence := arm s 5000 }))

/-- A valid frame other than Pace at the current rate: a notice or claim-family frame joins the receive holding, or is counted
as an overrun while four are held; in READYING the frame adds one to the ready count, in UP it ends the error run and re-arms
the silence; in every other state, or at another rate, it is not acted on. -/
def Obligations.ValidFrameCounts : Prop :=
  ∀ (s : State) (side : Side) (rate : Rate) (c : Instr) (kept : Link), s.running = true →
    let l := s.linkAt side
    (c = .readyFrameReceived side rate ∧ kept = l ∨ c = .idleFrameReceived side rate ∧ kept = l ∨
      (∃ seq, c = .loopTestFrameReceived side rate seq ∧ kept = l ∧ l.state ≠ .loop) ∨
      (∃ f : Frame, c = .heldFrameReceived side rate f ∧ f.holdable = true ∧
        kept = if l.holding.length < 4 then { l with holding := l.holding ++ [f] }
          else { l with overruns := min (l.overruns + 1) 255 })) →
    (l.rate = some rate → l.state = .readying → l.readyCount < 2 →
      exec c s = .next (s.setLink side { kept with readyCount := l.readyCount + 1 })) ∧
    (l.rate = some rate → l.state = .up →
      exec c s = .next (s.setLink side { kept with errorRun := 0, silence := arm s 5000 })) ∧
    (l.rate ≠ some rate ∨ l.state ≠ .readying ∧ l.state ≠ .up → exec c s = .next s)

/-- The third valid frame other than Pace in READYING brings the link UP: the error run is 0, silence and keepalive run, the
LinkState event is posted, and NRV has the link status Up. -/
def Obligations.ThirdValidFrameBringsUp : Prop :=
  ∀ (s : State) (side : Side) (rate : Rate) (c : Instr) (kept : Link), s.running = true →
    let l := s.linkAt side
    l.rate = some rate → l.state = .readying → 2 ≤ l.readyCount →
    (c = .readyFrameReceived side rate ∧ kept = l ∨ c = .idleFrameReceived side rate ∧ kept = l ∨
      (∃ seq, c = .loopTestFrameReceived side rate seq ∧ kept = l) ∨
      (∃ f : Frame, c = .heldFrameReceived side rate f ∧ f.holdable = true ∧
        kept = if l.holding.length < 4 then { l with holding := l.holding ++ [f] }
          else { l with overruns := min (l.overruns + 1) 255 })) →
    let up : Link := { kept with
      state := .up, rx := .hunting, readyCount := 3, answerPaces := 0, readying := none, errorRun := 0,
      silence := arm s 5000, keepalive := arm s 1000 }
    ∃ t, exec c s = .next t ∧ Noticed (post (.linkState side .up .readying rate .none) (s.setLink side up)) t ∧
      t.mon = s.mon ∧ t.mgp.events = joinEvents s.clock (.linkState side .up .readying rate .none) s.mgp.events ∧
      ReportsLink side true s t

/-- An errored frame is counted by its kind, up to 255, in READYING and UP alone; in READYING it sets the ready count to 0; in
UP it lengthens the error run, and the fourth in a row takes the link to DOWN, its queues and its holding emptied, with the
LinkState event of cause ErrorRun and the link status Down at NRV. The silence expiry takes the link out of UP in the same
way, with cause Silence. -/
def Obligations.ErrorsAndSilenceLeaveUp : Prop :=
  ∀ (s : State) (side : Side), s.running = true →
    let l := s.linkAt side
    let counted (e : FrameError) : Link := match e with
      | .checkError => { l with checkErrors := min (l.checkErrors + 1) 255 }
      | .framingError => { l with framingErrors := min (l.framingErrors + 1) 255 }
    let leaves (k : Link) (cause : LinkCause) (t : State) : Prop :=
      let down : Link := { k with
        state := .down, rx := .hunting, urgent := [], routine := [], holding := [], sending := none, answerPaces := 0,
        hailCount := 0, lastBurstEnd := none, hailSeq := arm s 10000, rateWindow := none, listening := none,
        readying := none, failedHold := none, silence := none, keepalive := none, loopReturn := none }
      t.linkAt side = down ∧ Noticed (post (.linkState side .down .up (l.rate.getD .slow) cause) (s.setLink side down)) t ∧
      t.mon = s.mon ∧
      t.mgp.events = joinEvents s.clock (.linkState side .down .up (l.rate.getD .slow) cause) s.mgp.events ∧
      ReportsLink side false s t
    (∀ e, l.state = .readying →
      exec (.erroredFrame side e) s = .next (s.setLink side { counted e with readyCount := 0 })) ∧
    (∀ e, l.state = .up → l.errorRun < 3 →
      exec (.erroredFrame side e) s = .next (s.setLink side { counted e with errorRun := l.errorRun + 1 })) ∧
    (∀ e, l.state = .up → 3 ≤ l.errorRun →
      ∃ t, exec (.erroredFrame side e) s = .next t ∧
        leaves { counted e with errorRun := l.errorRun + 1 } .errorRun t) ∧
    (∀ e, l.state ≠ .readying → l.state ≠ .up → exec (.erroredFrame side e) s = .next s) ∧
    (l.state = .up → due s l.silence = true →
      ∃ t, exec (.silenceExpiry side) s = .next t ∧ leaves l .silence t)

/-- R60: an offered frame joins its class in a transmit queue of fewer than 16 frames; in a full queue a routine frame is
discarded, and an urgent one takes the place of the newest routine frame, or is discarded and counted when all are urgent. -/
def Obligations.TransmitQueueTakesByClass : Prop :=
  ∀ (l : Link) (f : Frame),
    (l.depth < 16 → l.enqueue false f = { l with routine := l.routine ++ [f] } ∧
      l.enqueue true f = { l with urgent := l.urgent ++ [f] }) ∧
    (l.depth = 16 → l.enqueue false f = l) ∧
    (∀ older newest, l.depth = 16 → l.routine = older ++ [newest] →
      l.enqueue true f = { l with routine := older, urgent := l.urgent ++ [f] }) ∧
    (l.depth = 16 → l.routine = [] → l.enqueue true f = { l with txOverflow := min (l.txOverflow + 1) 255 })

/-- The completion of a frame sent in UP re-arms the keepalive and begins the next frame, urgent before routine, oldest first;
the keepalive's expiry sends an Idle frame when no frame is in sending, and is disarmed in any case: also while a hail
sequence runs on (the model's inference, Log 8). -/
def Obligations.UpLinkSendsInOrder : Prop :=
  ∀ (s : State) (side : Side), s.running = true → (s.linkAt side).state = .up →
    let l := s.linkAt side
    let rate := l.rate.getD .slow
    let done : Link := { l with sending := none, keepalive := arm s 1000 }
    (l.sending ≠ none → l.urgent = [] → l.routine = [] →
      exec (.frameSendComplete side) s = .next (s.setLink side done)) ∧
    (∀ f rest, l.sending ≠ none → l.urgent = f :: rest →
      exec (.frameSendComplete side) s = .next (s.setLink side { done with urgent := rest, sending := some ⟨f, rate⟩ })) ∧
    (∀ f rest, l.sending ≠ none → l.urgent = [] → l.routine = f :: rest →
      exec (.frameSendComplete side) s = .next (s.setLink side { done with routine := rest, sending := some ⟨f, rate⟩ })) ∧
    (due s l.keepalive = true → l.sending = none →
      exec (.keepaliveExpiry side) s =
        .next (s.setLink side { l with keepalive := none, sending := some ⟨⟨.idle, []⟩, rate⟩ })) ∧
    (due s l.keepalive = true → l.sending ≠ none →
      exec (.keepaliveExpiry side) s = .next (s.setLink side { l with keepalive := none }))

/-- A completion outside UP and LOOP: a pacer in PACING sends the next Pace frame, at the first of a rate arming the rate
window; a link in READYING sends its owed Pace frames and then Ready frames, also while a hail sequence runs on (the model's inference,
Log 8); in DOWN, LISTENING and FAILED nothing follows. -/
def Obligations.AgreeingLinkRepeatsItsFrames : Prop :=
  ∀ (s : State) (side : Side), s.running = true → (s.linkAt side).sending ≠ none →
    let l := s.linkAt side
    let rate := l.rate.getD .slow
    (l.state = .pacing → l.hail = none → exec (.frameSendComplete side) s = .next (s.setLink side
      { l with
        rateWindow := if l.rateWindow = none then arm s 2000 else l.rateWindow,
        sending := some ⟨⟨.pace, []⟩, rate⟩ })) ∧
    (l.state = .readying → l.answerPaces = 0 →
      exec (.frameSendComplete side) s = .next (s.setLink side { l with sending := some ⟨⟨.ready, []⟩, rate⟩ })) ∧
    (l.state = .readying → l.answerPaces ≠ 0 → exec (.frameSendComplete side) s = .next (s.setLink side
      { l with answerPaces := l.answerPaces - 1, sending := some ⟨⟨.pace, []⟩, rate⟩ })) ∧
    (l.state = .down ∨ l.state = .listening ∨ l.state = .failed →
      exec (.frameSendComplete side) s = .next (s.setLink side { l with sending := none }))

/-- The loop test: the command, taken in DOWN or FAILED with nothing in sending, connects the link to itself at Slow and sends
the first of 16 frames; each completion counts and the sixteenth arms the loop return; a frame that comes back is counted
once; the return's expiry posts the count and brings the link to DOWN at its top rate. In any other state the command is
answered Busy. -/
def Obligations.LoopTestRuns : Prop :=
  ∀ (s : State) (side : Side),
    let l := s.linkAt side
    (s.takesCommands → l.state = .down ∨ l.state = .failed → l.sending = none →
      exec (.loopTest [byte side.code]) s = .next (owe ⟨.accepted, [], false⟩ (s.setLink side
        { l with
          state := .loop, rx := .hunting, hailSeq := none, gapLimit := none, hailBurst := none, failedHold := none,
          hail := none, hailCount := 0, rate := some .slow, loopSent := 0, loopReturned := 0, loopCounted := [],
          sending := some ⟨⟨.loopTest, [1]⟩, .slow⟩ }))) ∧
    (s.takesCommands → l.state ≠ .down → l.state ≠ .failed →
      exec (.loopTest [byte side.code]) s = .next (owe ⟨.busy, [], false⟩ s)) ∧
    (s.running = true → l.state = .loop → l.sending ≠ none → l.loopSent < 15 → l.rate = some .slow →
      exec (.frameSendComplete side) s = .next (s.setLink side
        { l with
          loopSent := l.loopSent + 1, sending := some ⟨⟨.loopTest, [byte (l.loopSent + 2)]⟩, .slow⟩ })) ∧
    (s.running = true → l.state = .loop → l.sending ≠ none → l.loopSent = 15 →
      exec (.frameSendComplete side) s = .next (s.setLink side
        { l with loopSent := 16, sending := none, loopReturn := arm s 1000 })) ∧
    (∀ seq : Byte, s.running = true → l.state = .loop → l.rate = some .slow → 1 ≤ seq.toNat → seq.toNat ≤ l.loopSent →
      seq.toNat ≤ 16 →
      exec (.loopTestFrameReceived side .slow seq) s = .next (s.setLink side
        (if l.loopCounted.contains seq.toNat then l
          else { l with
            loopReturned := min (l.loopReturned + 1) 16, loopCounted := l.loopCounted ++ [seq.toNat] }))) ∧
    (s.running = true → l.state = .loop → due s l.loopReturn = true →
      exec (.loopReturnExpiry side) s = .next (post (.loopResult side l.loopReturned) (s.setLink side
        { l with
          state := .down, rate := l.topRate, rx := .hunting, sending := none, answerPaces := 0, hailCount := 0,
          lastBurstEnd := none, hailSeq := arm s 10000, rateWindow := none, listening := none, readying := none,
          failedHold := none, silence := none, keepalive := none, loopReturn := none })))

/-! ## Notice Relay and Ring View (05) -/

/-- R71: a notice is accepted when the report it names is absent, or stale, or fresh with a sequence that the notice's is newer
than: 1 to 127 ahead, mod 256. -/
def Obligations.NoticeAcceptance : Prop :=
  (∀ s t : Nat, s < 256 → t < 256 →
    (newer s t = true ↔ 1 ≤ ((s : Int) - (t : Int)) % 256 ∧ ((s : Int) - (t : Int)) % 256 ≤ 127)) ∧
  (∀ s : Nat, acceptsNotice s none = true) ∧
  (∀ (s : Nat) (r : Report), acceptsNotice s (some r) = true ↔ r.stale = true ∨ newer s r.seq = true)

/-- R75: a span is Failed when a fresh report has Cut or ForcedOut, Usable when both reports are fresh, Clear or Degraded, with
both links Up, and Unknown in every other case. R76: Locked is set exactly when a fresh report carries Spares Locked, Degraded
exactly when a fresh report has condition Degraded. -/
def Obligations.SpanValuesFromReports : Prop :=
  ∀ w e : Option Report,
    (deriveStatus w e = .failed ↔
      ∃ r, (w = some r ∨ e = some r) ∧ r.stale = false ∧ (r.condition = .cut ∨ r.condition = .forcedOut)) ∧
    (deriveStatus w e = .usable ↔
      ∃ a b, w = some a ∧ e = some b ∧ a.stale = false ∧ b.stale = false ∧
        (a.condition = .clear ∨ a.condition = .degraded) ∧ (b.condition = .clear ∨ b.condition = .degraded) ∧
        a.linkUp = true ∧ b.linkUp = true) ∧
    (deriveStatus w e = .unknown ↔ deriveStatus w e ≠ .failed ∧ deriveStatus w e ≠ .usable) ∧
    (deriveLocked w e = true ↔ ∃ r, (w = some r ∨ e = some r) ∧ r.stale = false ∧ r.locked = true) ∧
    (deriveDegraded w e = true ↔ ∃ r, (w = some r ∨ e = some r) ∧ r.stale = false ∧ r.condition = .degraded)

/-- R78: with fewer than two Failed spans every node is in segment 0; with more, node 0 is in segment 0, each Failed span going
East begins the next number, and after the last Failed span the number is 0 again. Two nodes are in one segment exactly when
one of the two arcs between them has no Failed span. -/
def Obligations.SegmentsAreCutByFailedSpans : Prop :=
  ∀ ring : List SpanEntry,
    let failed (i : Nat) : Prop := ∃ e, ring[i]? = some e ∧ e.status = .failed
    let segment (node : Nat) : Nat := (segmentMap ring).getD node 0
    (segmentMap ring).length = ring.length ∧
    ((failedSpans ring).length < 2 → ∀ node, segment node = 0) ∧
    (2 ≤ (failedSpans ring).length → segment 0 = 0 ∧
      ∀ node, node + 1 < ring.length →
        (failed node → segment (node + 1) = (segment node + 1) % (failedSpans ring).length) ∧
        (¬ failed node → segment (node + 1) = segment node)) ∧
    (∀ x y, x < ring.length → y < ring.length →
      (segment x = segment y ↔
        (∀ i ∈ arcSpans ring.length x y .east, ¬ failed i) ∨ (∀ i ∈ arcSpans ring.length x y .west, ¬ failed i)))

/-- The refresh expiry re-arms the deadline and offers both links a routine Span Notice of the own report with the next
sequence. -/
def Obligations.RefreshOriginatesANotice : Prop :=
  ∀ (s : State) (side : Side) (i : Ident) (r : Report), s.running = true → s.ident = some i →
    s.nrv.own.get side = some r → due s (s.nrv.refresh.get side) = true →
    let seq := (r.seq + 1) % 256
    let f : Frame := ⟨.spanNotice, [byte i.node, byte side.code, byte r.condition.code, if r.linkUp then 1 else 0,
      if r.locked then 1 else 0, byte seq, byte (i.ring - 1)]⟩
    exec (.refreshExpiry side) s =
      .next (offerNotice .west false f (offerNotice .east false f (s.setNrv
        { s.nrv with
          refresh := s.nrv.refresh.set side (arm s s.plan.refresh)
          own := s.nrv.own.set side (some { r with seq := seq }) })))

/-- The freshness expiry marks the report stale and keeps its fields; the entry, the map and the hand-offs follow. The restart
guard's expiry disarms that one guard. (That the hand-offs of one event wait as one entry is the model's inference, Log 4; that
a repair from two Failed spans to one hands the map, by R79 and against the last sentences of R178, its choice, Log 42.) -/
def Obligations.FreshnessAndGuardExpiries : Prop :=
  (∀ (s : State) (span : Nat) (theEnd : SpanEnd) (r : Report), s.running = true →
    remoteReport s span theEnd = some r → due s r.freshness = true →
    ∃ t, exec (.freshnessExpiry span theEnd) s = .next t ∧ ViewUpdated [span] none s t ∧
      remoteReport t span theEnd = some { r with stale := true, freshness := none } ∧
      t.link = s.link ∧ t.mgp = s.mgp) ∧
  (∀ (s : State) (origin : Nat) (side : Side), s.running = true → due s (guardOf s origin side) = true →
    let t := s.setNrv
      { s.nrv with guards := s.nrv.guards.set side (modifyAt origin (fun _ => none) (s.nrv.guards.get side)) }
    exec (.restartGuardExpiry origin side) s = .next t ∧ guardOf t origin side = none ∧
      ∀ o x, (o, x) ≠ (origin, side) → guardOf t o x = guardOf s o x)

/-- A Span Notice at a node that knows its identity leaves the holding; one with a bad field, of this node's own or beyond the
ring, or not accepted, changes nothing more; an accepted one is the end report it names, fresh for four refresh intervals,
and goes on round the ring, urgent when it brought news. (That the hand-offs of one event wait as one entry is the model's
inference, Log 4; that a repair from two Failed spans to one hands the map, by R79 and against the last sentences of R178, its
choice, Log 42.) -/
def Obligations.SpanNoticeIsJudged : Prop :=
  ∀ (s : State) (arrival : Side) (f : Frame) (l : Link), s.running = true →
    takeHeld FrameKind.isNotice (s.linkAt arrival) = some (f, l) → f.kind = .spanNotice →
    let taken := s.setLink arrival l
    (decodeNotice f.body = none → exec (.spanNotice arrival) s = .next taken) ∧
    ∀ (n : Notice) (i : Ident), decodeNotice f.body = some n → s.ident = some i →
      let place := namedEnd i.ring n.origin n.side
      let held := remoteReport s place.1 place.2
      (n.origin = i.node ∨ i.ring ≤ n.origin → exec (.spanNotice arrival) s = .next taken) ∧
      (n.origin ≠ i.node → n.origin < i.ring → acceptsNotice n.seq held = false →
        exec (.spanNotice arrival) s = .next taken) ∧
      (n.origin ≠ i.node → n.origin < i.ring → acceptsNotice n.seq held = true → place.1 < s.nrv.ring.length →
        ∃ t, exec (.spanNotice arrival) s = .next t ∧ ViewUpdated [place.1] none taken t ∧
          remoteReport t place.1 place.2 =
            some ⟨n.condition, n.linkUp, n.locked, n.seq, false, arm s (4 * s.plan.refresh)⟩ ∧
          t.link = (relayed arrival (noticeIsNews n held) n.hops f taken).link ∧ t.mgp = s.mgp)

/-- A Restart Notice at a node that knows its identity: one of this node's own or beyond the ring, or one whose guard runs, is
ignored (until the guard's expiry is taken: the model's reading of R27, Log 37); an accepted one arms the guard for four
refresh intervals, clears the origin's two end reports, is handed to both circuit blocks together with the changes it makes,
goes on round the ring and posts RestartHeard. (That the hand-offs of one event wait as one entry is the model's inference, Log
4; that of two changes of one row the East span's comes first, its choice, Log 44; that a repair from two Failed spans to one
hands the map, by R79 and against the last sentences of R178, its choice, Log 42.) -/
def Obligations.RestartNoticeIsJudged : Prop :=
  ∀ (s : State) (arrival : Side) (f : Frame) (l : Link) (i : Ident), s.running = true → s.ident = some i →
    takeHeld FrameKind.isNotice (s.linkAt arrival) = some (f, l) → f.kind = .restartNotice →
    let taken := s.setLink arrival l
    let origin := field1 f.body 0
    let hops := min (field1 f.body 1) 23
    (origin = i.node ∨ i.ring ≤ origin ∨ guardOf s origin arrival ≠ none →
      exec (.restartNotice arrival) s = .next taken) ∧
    (origin ≠ i.node → origin < i.ring → guardOf s origin arrival = none →
      origin < (s.nrv.guards.get arrival).length →
      let west := (origin + i.ring - 1) % i.ring
      ∃ t, exec (.restartNotice arrival) s = .next t ∧ ViewUpdated [origin, west] (some origin) taken t ∧
        guardOf t origin arrival = arm s (4 * s.plan.refresh) ∧
        remoteReport t origin .westEnd = none ∧ remoteReport t west .eastEnd = none ∧
        t.link = (relayed arrival true hops f taken).link ∧
        t.mgp.events = joinEvents s.clock (.restartHeard origin arrival) s.mgp.events)

/-- A node whose identity is unknown keeps relay records alone: a Span Notice that its record lets pass sets the record and
goes on, urgent; a Restart Notice clears the origin's two records, goes on and posts RestartHeard. -/
def Obligations.StrangerRelaysNotices : Prop :=
  ∀ (s : State) (arrival : Side) (f : Frame) (l : Link), s.running = true → s.ident = none →
    takeHeld FrameKind.isNotice (s.linkAt arrival) = some (f, l) →
    let taken := s.setLink arrival l
    (∀ n, f.kind = .spanNotice → decodeNotice f.body = some n →
      let passes := n.origin < 24 ∧ ∀ t, relayRecord s n.origin n.side = some t → newer n.seq t = true
      (¬ passes → exec (.spanNotice arrival) s = .next taken) ∧
      (passes → exec (.spanNotice arrival) s =
        .next (relayed arrival true n.hops f (setRelay n.origin n.side (some n.seq) taken)))) ∧
    (f.kind = .restartNotice → field1 f.body 0 < 24 →
      exec (.restartNotice arrival) s = .next (post (.restartHeard (field1 f.body 0) arrival)
        (relayed arrival true (min (field1 f.body 1) 23) f
          (setRelay (field1 f.body 0) .west none (setRelay (field1 f.body 0) .east none taken)))))

/-- The first Up of a side since the reset, on a free line: the Restart Notice is sent, this side's Span Notice and then the
other side's wait behind it, and when the other side has sent its own, the second Restart Notice is handed to the Circuit
Logic. -/
def Obligations.FirstUpSendsTheRestartNotice : Prop :=
  ∀ (s : State) (side : Side) (rate : Rate) (i : Ident) (r q : Report), s.running = true → s.ident = some i →
    let l := s.linkAt side
    l.state = .readying → l.rate = some rate → l.readyCount = 2 → l.sending = none →
    (s.linkAt side.other).state ≠ .up → l.urgent = [] → l.routine = [] →
    s.nrv.restartSent.get side = false → s.nrv.own.get side = some r → r.linkUp = false →
    s.nrv.own.get side.other = some q →
    let notice (x : Side) (r : Report) : Frame := ⟨.spanNotice, [byte i.node, byte x.code, byte r.condition.code,
      if r.linkUp then 1 else 0, if r.locked then 1 else 0, byte r.seq, byte (i.ring - 1)]⟩
    ∃ t, exec (.readyFrameReceived side rate) s = .next t ∧
      (t.linkAt side).sending = some ⟨⟨.restartNotice, [byte i.node, byte (i.ring - 1)]⟩, rate⟩ ∧
      (t.linkAt side).urgent = [notice side { r with linkUp := true, seq := (r.seq + 1) % 256 },
        notice side.other { q with seq := (q.seq + 1) % 256 }] ∧
      t.nrv.restartSent = s.nrv.restartSent.set side true ∧
      (s.nrv.restartSent.get side.other = true → ∃ h, t.toCcl.getLast? = some h ∧ h.second = true)

/-! ## Detour Planner (07) -/

/-- R111 to R117: the fibre delay is 0.49 µs for each 0.1 km, rounded up; the detour delay adds the penalty for each intermediate
node and the reach cost adds the pass cost; both stay in the manual's ranges. A circuit question fails first with RingSplit, when the segment map gives its ends
different segments; then by the first span in order of travel that is not Usable and unlocked, with SpanUnusable or
SpanLocked; a detour whose spans pass fails on a nonzero ceiling below its delay, then on a nonzero allowance below its cost,
then on a port in FAULT. -/
def Obligations.DetourDelayAndReachCost : Prop :=
  ∀ (s : State) (c : Circuit),
    let arc := detourArc s c
    let length (i : Nat) : Nat := (s.plan.spans[i]?.map (·.length)).getD 0
    let cost (i : Nat) : Nat := (s.plan.spans[i]?.map (·.cost)).getD 0
    let fibre := fibreDelay (arcLengths s arc)
    let delay := fibre + (arc.length - 1) * s.plan.transitPenalty
    let reach := (arc.map cost).sum + (arc.length - 1) * s.plan.passCost
    49 * (arc.map length).sum ≤ 100 * fibre ∧ 100 * fibre < 49 * (arc.map length).sum + 100 ∧
    detourDelay s c = delay ∧ detourCost s c = reach ∧
    (1 ≤ arc.length → arc.length ≤ 23 → (∀ i ∈ arc, 1 ≤ length i ∧ length i ≤ 20000) → s.plan.transitPenalty ≤ 255 →
      1 ≤ fibre ∧ fibre ≤ 225400 ∧ 1 ≤ delay ∧ delay ≤ 231010) ∧
    (1 ≤ arc.length → arc.length ≤ 23 → (∀ i ∈ arc, 1 ≤ cost i ∧ cost i ≤ 999) → s.plan.passCost ≤ 99 →
      1 ≤ reach ∧ reach ≤ 25155) ∧
    (segmentOf s c.a ≠ segmentOf s c.z → circuitFault s c = some .ringSplit) ∧
    (∀ before i after, segmentOf s c.a = segmentOf s c.z → arc = before ++ i :: after →
      (∀ x ∈ before, statusOf s x = .usable ∧ lockedOf s x = false) →
      (statusOf s i ≠ .usable → circuitFault s c = some .spanUnusable) ∧
      (statusOf s i = .usable → lockedOf s i = true → circuitFault s c = some .spanLocked)) ∧
    (segmentOf s c.a = segmentOf s c.z → (∀ i ∈ arc, statusOf s i = .usable ∧ lockedOf s i = false) →
      circuitFault s c =
        if c.ceiling ≠ 0 ∧ c.ceiling < delay then some .delayCeiling
        else if c.allowance ≠ 0 ∧ c.allowance < reach then some .reachAllowance
        else if (portAt s c.portNo).state = .fault then some .portFault
        else none)

/-- R118 to R123: the base order holds every spare lane once, from the start lane B + (id mod S), upward and round; no lane list,
and so no answer of the planner, holds any other lane. The lane list is the base order without the excluded lanes and those
whose entry on the detour side the claim's key may not take; the preplanned lane stands first in it when it is in it, the class
is Preplanned and the attempt count is 0. A group's answer is the first reason among its members' own, in order; else one lane
for each member, in order the first of its list that no member before it has taken; and else NoFreeLane for one head,
BundleFailed for more. -/
def Obligations.BaseOrderHoldsTheSpareLanes : Prop :=
  (∀ base id : Nat, base < 48 →
    (baseOrder base id).length = 48 - base ∧ (baseOrder base id).Nodup ∧
    (∀ lane, lane ∈ baseOrder base id ↔ base ≤ lane ∧ lane < 48) ∧
    (baseOrder base id)[0]? = some (base + id % (48 - base)) ∧
    (∀ k a b, (baseOrder base id)[k]? = some a → (baseOrder base id)[k + 1]? = some b →
      b = if a = 47 then base else a + 1)) ∧
  (∀ (s : State) (urgency : Nat) (c : Circuit), ∀ lane ∈ laneList s urgency c, s.plan.spareBase ≤ lane ∧ lane < 48) ∧
  (∀ (s : State) (group : List Nat) (urgency : Nat) (lanes : List (Nat × Nat)), ask s group urgency = .feasible lanes →
    ∀ p ∈ lanes, s.plan.spareBase ≤ p.2 ∧ p.2 < 48) ∧
  (∀ (s : State) (urgency : Nat) (c : Circuit),
    let stays := (baseOrder s.plan.spareBase c.id).filter fun lane => !c.excluded.contains lane &&
      (laneEntry s c.detourSide lane).any fun e => e.takeable ⟨urgency, c.cls.rank, c.priority, c.id⟩ s.node
    let first (lane : Nat) : Prop := c.preplanned = some lane ∧ c.cls = .preplanned ∧ c.count = 0 ∧ lane ∈ stays
    (∀ lane, first lane → laneList s urgency c = lane :: stays.filter fun x => x ≠ lane) ∧
    ((∀ lane, ¬ first lane) → laneList s urgency c = stays)) ∧
  (∀ (s : State) (group : List Nat) (urgency : Nat),
    let cs := members s group
    (∀ before c after reason, cs = before ++ c :: after → (∀ d ∈ before, circuitFault s d = none) →
      circuitFault s c = some reason → ask s group urgency = .infeasible reason) ∧
    ((∀ c ∈ cs, circuitFault s c = none) →
      (∀ lanes, ask s group urgency = .feasible lanes ↔ lanes.map (·.1) = cs.map (·.id) ∧
        ∀ k c lane, cs[k]? = some c → (lanes.map (·.2))[k]? = some lane →
          let taken := (lanes.take k).map (·.2)
          ∃ before after, laneList s urgency c = before ++ lane :: after ∧ lane ∉ taken ∧ ∀ x ∈ before, x ∈ taken) ∧
      ((∀ lanes, ask s group urgency ≠ .feasible lanes) →
        ask s group urgency = .infeasible (if cs.length = 1 then .noFreeLane else .bundleFailed))))

/-- Keys compare urgency, class rank, priority, and last the id, the lower ranking higher; of two different keys one ranks above
the other. A claim takes a Free entry, never a Blocked one, a Pending or Held one of its own circuit and head, and one of
another claim that its key ranks above, a Held one only when it was not won at urgency 3. The claim queue is in that order: an
entry joins behind those that rank above it. Its service starts the front entry's attempt while its members fit the 8 slots,
and stops at a front entry that does not fit, whatever waits behind it; an attempt that is infeasible at its start strands. -/
def Obligations.ClaimsTakeByKey : Prop :=
  (∀ y x : Key, y.above x = true ↔ y.urgency > x.urgency ∨ y.urgency = x.urgency ∧ (y.rank > x.rank ∨
    y.rank = x.rank ∧ (y.priority > x.priority ∨ y.priority = x.priority ∧ y.id < x.id))) ∧
  (∀ y x : Key, y ≠ x → (y.above x = true ↔ ¬ x.above y = true)) ∧
  (∀ (y : Key) (head : Nat), LaneEntry.takeable y head .free = true ∧ LaneEntry.takeable y head .blocked = false) ∧
  (∀ (y : Key) (head d : Nat) (x : Claim),
    (LaneEntry.takeable y head (.pending x d) = true ↔ (x.id = y.id ∧ x.head = head) ∨ y.above x.key = true) ∧
    (LaneEntry.takeable y head (.held x) = true ↔
      (x.id = y.id ∧ x.head = head) ∨ y.above x.key = true ∧ x.urgency < 3)) ∧
  (∀ (e : QueueEntry) (ahead behind : List QueueEntry), (∀ x ∈ ahead, x.key.above e.key = true) →
    (∀ x ∈ behind, x.key.above e.key = false) → insertEntry e (ahead ++ behind) = ahead ++ e :: behind) ∧
  (∀ s : State, Settled s ↔ s.work = [] ∧ ∀ e rest, s.queue = e :: rest →
    ∃ c, findCircuit s e.lead = some c ∧ 8 < slotsUsed s + (groupOf s c).length) ∧
  (∀ (s : State) (e : QueueEntry) (rest : List QueueEntry) (c : Circuit), s.work = [] → s.queue = e :: rest →
    findCircuit s e.lead = some c → slotsUsed s + (groupOf s c).length ≤ 8 →
    settleOnce s = some (startAttempt (groupOf s c) e.key.urgency s)) ∧
  (∀ (s : State) (group : List Nat) (urgency : Nat) (reason : Reason), ask s group urgency = .infeasible reason →
    startAttempt group urgency s = strand group reason s)

/-! ## Circuit Logic (06, 10) -/

/-- The hand-offs of one Ring View event are taken together from the front of the Circuit Logic's list, by the command of the
weightiest among them, and leave the spans, the Ring View, the plan, the clock, the responses and every record's id as they
were. Where they concern no record of a settled node they do nothing more: no new map, no change on a head's arcs, no restart
on the detour arc of a head that holds a detour, no second Restart Notice for a head that holds one or claims, no failed span
of its detour arc or restart of its head for a tail away. A change of the working arc takes a revertive head
that wants no detour from DETOURED to WAIT_RESTORE when the arc is all Usable, its deadline armed, and back when it is not; a
bundle of two goes together. A Failed span of its detour arc, or its head node's restart, takes a tail in RETUNING or DETOURED
to REVERTING. (That hand-offs wait in a list until they are taken, as one entry for each event, is the model's inference, Log
4.) -/
def Obligations.CircuitHandOffsAreTaken : Prop :=
  ∀ (s : State) (command : Instr) (hand : CclHand) (rest : List CclHand), s.running = true → s.toCcl = hand :: rest →
    (command = .cclSpanChange ∧ hand.restart = none ∧ hand.second = false ∧ hand.map = none ∨
      command = .cclSegmentMap ∧ hand.restart = none ∧ hand.second = false ∧ hand.map ≠ none ∨
      command = .cclRestart ∧ hand.restart ≠ none ∨
      command = .cclSecondRestart ∧ hand.restart = none ∧ hand.second = true) →
    let taken := s.setToCcl rest
    let away (c : Circuit) : Prop := c.state = .retuning ∨ c.state = .detoured ∨ c.state = .waitRestore
    (∃ t, exec command s = .next t ∧ Quiet taken t) ∧
    (Settled s →
      (∀ c ∈ s.circuits, c.role = .head → hand.map = none ∧
        (∀ i old new, .status i old new ∈ hand.changes → i ∉ workArc s c ∧ i ∉ detourArc s c) ∧
        (∀ i set, .locked i set ∈ hand.changes → i ∉ detourArc s c) ∧
        (∀ i set, .degraded i set ∈ hand.changes → i ∉ workArc s c) ∧
        (∀ node, hand.restart = some node → away c → node ≠ c.z ∧ node ∉ arcInner s.ring c.a c.z c.detourDir) ∧
        (hand.second = true → ¬ away c ∧ c.state ≠ .claiming)) →
      (∀ c ∈ s.circuits, c.role = .tail → c.state = .retuning ∨ c.state = .detoured →
        (∀ i old, .status i old .failed ∈ hand.changes → i ∉ detourArc s c) ∧ hand.restart ≠ some c.headNode) →
      exec command s = .next taken) ∧
    (s.work = [] → s.queue = [] →
      let changed (c : Circuit) : Prop := ∃ span old new, .status span old new ∈ hand.changes ∧ span ∈ workArc s c
      let waits (c : Circuit) : Circuit :=
        { c with state := .waitRestore, reason := .none, waitToRestore := arm s s.plan.waitToRestore }
      let back (c : Circuit) : Circuit := { c with state := .detoured, reason := .none, waitToRestore := none }
      (∀ c, s.circuits = [c] → c.role = .head → c.bundle = 0 → changed c → hand.restart = none → hand.second = false →
        arcFailed s (detourArc s c) = false →
        (c.state = .detoured → c.revertive = true → c.request = .none → arcUsable s (workArc s c) = true →
          (∀ i ∈ workArc s c, degradedOf s i = false) →
          exec command s = .next (post (.circuitState c.id .waitRestore .detoured .none) (taken.setCircuits [waits c]))) ∧
        (c.state = .waitRestore → c.request ≠ .pin → arcUsable s (workArc s c) = false →
          exec command s = .next (post (.circuitState c.id .detoured .waitRestore .none) (taken.setCircuits [back c])))) ∧
      (∀ c d, s.circuits = [c, d] → c.id ≠ d.id → c.role = .head → d.role = .head → c.bundle ≠ 0 → d.bundle = c.bundle →
        d.a = c.a → d.z = c.z → d.dir = c.dir → changed c → hand.restart = none → hand.second = false →
        arcFailed s (detourArc s c) = false → c.state = .detoured → d.state = .detoured → c.request = .none →
        d.request = .none → arcUsable s (workArc s c) = true → (∀ i ∈ workArc s c, degradedOf s i = false) →
        (c.revertive = true → d.revertive = true → exec command s =
          .next (post (.circuitState d.id .waitRestore .detoured .none)
            (post (.circuitState c.id .waitRestore .detoured .none) (taken.setCircuits [waits c, waits d])))) ∧
        (c.revertive = false ∨ d.revertive = false → exec command s = .next taken)) ∧
      (∀ c lane, s.circuits = [c] → c.role = .tail → c.state = .retuning ∨ c.state = .detoured → c.detour = some lane →
        mayStepAtOnce s c.portNo c.lane →
        (∃ span old, .status span old .failed ∈ hand.changes ∧ span ∈ detourArc s c) ∨ hand.restart = some c.headNode →
        ∃ t, exec command s = .next t ∧ TurnsHome c lane s t ∧ t.toCcl = rest ∧ t.link = s.link ∧ t.lanes = s.lanes))

/-- A Cut at an independent head in WORKING: with class None it goes to STRANDED with NoRestoration; with a feasible answer on a
free entry it passes through the claim queue to CLAIMING, takes its lane as Pending and sends its claim. A bundle of two
starts its attempts jointly, in ascending id, and strands jointly when one member's class is None. -/
def Obligations.CutStrandsOrClaims : Prop :=
  ∀ (s : State) (c : Circuit) (changes : List SpanChange) (rest : List CclHand) (span : Nat) (old : SpanStatus),
    s.running = true → s.work = [] → s.queue = [] → s.toCcl = ⟨none, false, changes, none⟩ :: rest →
    .status span old .failed ∈ changes → span ∈ workArc s c → statusOf s span = .failed →
    c.role = .head → c.state = .working → c.request ≠ .pin →
    let unrestorable (c : Circuit) : Circuit :=
      { c with
        state := .stranded, reason := .noRestoration, count := 0, excluded := [], claimTimeout := none,
        waitToRestore := none, detour := none }
    let claiming (lane : Nat) (c : Circuit) : Circuit :=
      { c with
        state := .claiming, reason := .none, tag := (c.tag + 1) % 8, detour := some lane,
        claimTimeout := arm s s.plan.claimTimeout, waitToRestore := none, attempt := .open }
    let claim (lane : Nat) (c : Circuit) : Frame :=
      ⟨.detourClaim, bytes2 c.id ++ [byte c.a, byte c.z, byte c.detourDir.code, byte lane, byte ((c.tag + 1) % 8),
        3, byte c.cls.rank, byte c.priority, byte (hopsToTail s (c.attempted lane))]⟩
    let reserved (lane : Nat) (c : Circuit) (t : State) : Prop :=
      laneEntry t c.detourDir lane =
        some (.pending ⟨c.id, c.a, c.z, c.detourDir, (c.tag + 1) % 8, 3, c.cls.rank, c.priority⟩
          (min (s.clock + 2 * s.plan.claimTimeout) 0xFFFFFFFFFFFF))
    let mayClaim (lane : Nat) (c : Circuit) : Prop :=
      c.cls ≠ .none ∧ c.count = 0 ∧ c.excluded = [] ∧ c.a = s.node ∧ laneEntry s c.detourDir lane = some .free ∧
      (s.linkAt c.detourDir).state = .up
    (s.circuits = [c] → c.bundle = 0 → c.cls = .none → exec .cclSpanChange s = .next
      (post (.circuitState c.id .stranded .working .noRestoration) ((s.setToCcl rest).setCircuits [unrestorable c]))) ∧
    (∀ lane, s.circuits = [c] → c.bundle = 0 → mayClaim lane c → ask s [c.id] 3 = .feasible [(c.id, lane)] →
      ∃ t, exec .cclSpanChange s = .next t ∧ t.circuits = [claiming lane c] ∧
        t.queue = [] ∧ reserved lane c t ∧
        t.link = (offerUp c.detourDir true (claim lane c) s).link ∧
        t.mgp.events = joinEvents s.clock (.circuitState c.id .claiming .queued .none)
          (joinEvents s.clock (.circuitState c.id .queued .working .none) s.mgp.events) ∧
        t.lsd = s.lsd ∧ t.tpc = s.tpc) ∧
    ∀ d, s.circuits = [c, d] → c.id ≠ d.id → d.role = .head → c.bundle ≠ 0 → d.bundle = c.bundle → d.a = c.a →
      d.z = c.z → d.dir = c.dir → d.state = .working → d.request ≠ .pin →
      (c.cls = .none ∨ d.cls = .none → exec .cclSpanChange s = .next
        (post (.circuitState d.id .stranded .working .noRestoration)
          (post (.circuitState c.id .stranded .working .noRestoration)
            ((s.setToCcl rest).setCircuits [unrestorable c, unrestorable d])))) ∧
      (∀ lane lane', mayClaim lane c → mayClaim lane' d →
        ask s [c.id, d.id] 3 = .feasible [(c.id, lane), (d.id, lane')] →
        ∃ t, exec .cclSpanChange s = .next t ∧ t.circuits = [claiming lane c, claiming lane' d] ∧ t.queue = [] ∧
          reserved lane c t ∧ reserved lane' d t ∧
          t.link = (offerUp d.detourDir true (claim lane' d) (offerUp c.detourDir true (claim lane c) s)).link ∧
          t.mgp.events = joinEvents s.clock (.circuitState d.id .claiming .queued .none)
            (joinEvents s.clock (.circuitState c.id .claiming .queued .none)
              (joinEvents s.clock (.circuitState d.id .queued .working .none)
                (joinEvents s.clock (.circuitState c.id .queued .working .none) s.mgp.events))) ∧
          t.lsd = s.lsd ∧ t.tpc = s.tpc)

/-- An independent head on its detour, its port IDLE there with a slot free, starts to revert on the wait-to-restore expiry; on
the restart of its detour's tail, this node's second Restart Notice or a Failed span of its detour arc, each taken once
whatever changes come with it, while its working arc is all Usable; and on Return while no span of it is Degraded either,
which is answered Done and removes a stored Forced or Manual request. A detour failure does the same when the working arc is not Usable and nothing wants the detour. A
bundle of two in WAIT_RESTORE reverts together on one member's expiry. -/
def Obligations.DetouredHeadReverts : Prop :=
  (∀ (s : State) (c : Circuit) (lane : Nat), s.running = true → s.work = [] → s.queue = [] → s.circuits = [c] →
    c.role = .head → c.bundle = 0 → c.detour = some lane → mayStepAtOnce s c.portNo c.lane →
    let comesHome := arcUsable s (workArc s c) = true ∨ wanted s [c.id] = none
    (c.state = .waitRestore → due s c.waitToRestore = true →
      ∃ t, exec (.waitToRestoreExpiry c.id) s = .next t ∧ Reverts c lane s t) ∧
    (∀ hand rest, comesHome → c.state = .detoured ∨ c.state = .waitRestore ∨ c.state = .retuning → s.toCcl = hand :: rest →
      (hand.restart = some c.z → ∃ t, exec .cclRestart s = .next t ∧ t.toCcl = rest ∧ Reverts c lane s t) ∧
      (hand.restart = none → hand.second = true →
        ∃ t, exec .cclSecondRestart s = .next t ∧ t.toCcl = rest ∧ Reverts c lane s t) ∧
      (∀ span old, hand.restart = none → hand.second = false → hand.map = none →
        .status span old .failed ∈ hand.changes → span ∈ detourArc s c → statusOf s span = .failed →
        ∃ t, exec .cclSpanChange s = .next t ∧ t.toCcl = rest ∧ Reverts c lane s t)) ∧
    (∀ p, arcUsable s (workArc s c) = true → s.takesCommands → c.state = .detoured ∨ c.state = .waitRestore →
      c.request ≠ .pin → (∀ i ∈ workArc s c, degradedOf s i = false) → requestParams 0x04 p = some c.id →
      ∃ t, exec (.circuitRequestReturn p) s = .next (owe ⟨.done, [], false⟩ t) ∧
        Reverts { c with request := .none } lane s t)) ∧
  ∀ (s : State) (c d : Circuit) (lane lane' : Nat), s.running = true → s.work = [] → s.queue = [] → s.circuits = [c, d] →
    c.id ≠ d.id → c.role = .head → d.role = .head → c.bundle ≠ 0 → d.bundle = c.bundle → c.state = .waitRestore →
    d.state = .waitRestore → c.detour = some lane → d.detour = some lane' → standsAway s c.portNo c.lane →
    standsAway s d.portNo d.lane → c.portNo ≠ d.portNo → due s c.waitToRestore = true →
    let turned (lane : Nat) (c : Circuit) : Circuit :=
      { c with
        state := .reverting, reason := .none, detour := some lane, parked := none, waitToRestore := none,
        claimTimeout := none, retuned := false, inEffect := false }
    ∃ t, exec (.waitToRestoreExpiry c.id) s = .next t ∧ t.circuits = [turned lane c, turned lane' d] ∧
      t.link = (offered d.detourDir (releaseOf s d lane') (offered c.detourDir (releaseOf s c lane) s)).link ∧
      t.mgp.events = joinEvents s.clock (.circuitState d.id .reverting .waitRestore .none)
        (joinEvents s.clock (.circuitState c.id .reverting .waitRestore .none) s.mgp.events)

/-- A new segment map with the ends of a queued head in different segments strands it with RingSplit. A claim timeout is
reported as ClaimRefused with Timeout and this node, and the attempt is withdrawn; the third failure strands the head with
AttemptsExhausted, its lane excluded. In a bundle of two a timeout waits for the other member's outcome, and a Grant held
there is then withdrawn too: both count the failure and strand together. A detour failure with the working arc cut and no way
round strands a head with the planner's reason, its detour withdrawn and its lane parked; a fault of its port strands it with
PortFault, from its detour or from CLAIMING. -/
def Obligations.SplitAndTimeoutStrand : Prop :=
  (∀ (s : State) (c : Circuit) (k : Key) (changes : List SpanChange) (map : List Nat) (rest : List CclHand),
    s.running = true → s.work = [] → s.queue = [⟨c.id, k⟩] → s.circuits = [c] →
    s.toCcl = ⟨none, false, changes, some map⟩ :: rest → c.role = .head → c.bundle = 0 → c.state = .queued →
    c.request ≠ .pin → cutStands s c = true → segmentOf s c.a ≠ segmentOf s c.z →
    exec .cclSegmentMap s = .next (post (.circuitState c.id .stranded .queued .ringSplit)
      (((s.setToCcl rest).setQueue []).setCircuits
        [{ c with
           state := .stranded, reason := .ringSplit, claimTimeout := none, waitToRestore := none, detour := none }]))) ∧
  (∀ (s : State) (id : Nat) (c : Circuit), s.running = true → findCircuit s id = some c → c.bundle = 0 →
    c.state = .claiming → due s c.claimTimeout = true →
    ∃ t, exec (.claimTimeoutExpiry id) s = .next t ∧ Quiet s t ∧
      PostsFrom s.clock (joinEvents s.clock (.claimRefused id .timeout s.nodeCode) s.mgp.events) t.mgp.events) ∧
  (∀ (s : State) (c : Circuit) (lane : Nat), s.running = true → s.work = [] → s.queue = [] → s.circuits = [c] →
    c.role = .head → c.bundle = 0 → c.state = .claiming → c.detour = some lane → c.count = 2 → c.request ≠ .pin →
    cutStands s c = true → due s c.claimTimeout = true →
    ∃ t, exec (.claimTimeoutExpiry c.id) s = .next t ∧ t.queue = [] ∧ Withdrawn c lane s t ∧
      t.circuits = [{ c with
        state := .stranded, reason := .attemptsExhausted, count := 3, claimTimeout := none, waitToRestore := none,
        detour := none, attempt := .open,
        excluded := if c.excluded.contains lane then c.excluded else c.excluded ++ [lane] }] ∧
      t.mgp.events = joinEvents s.clock (.circuitState c.id .stranded .claiming .attemptsExhausted)
        (joinEvents s.clock (.claimRefused c.id .timeout s.nodeCode) s.mgp.events)) ∧
  (∀ (s : State) (c d : Circuit) (lane lane' : Nat), s.running = true → s.work = [] → s.queue = [] →
    s.circuits = [c, d] → c.id ≠ d.id → c.role = .head → d.role = .head → c.bundle ≠ 0 → d.bundle = c.bundle →
    c.state = .claiming → d.state = .claiming → c.detour = some lane → d.detour = some lane' → c.attempt = .open →
    due s c.claimTimeout = true →
    (d.attempt = .open → exec (.claimTimeoutExpiry c.id) s =
      .next (s.setCircuits [{ c with attempt := .timedOut, claimTimeout := none }, d])) ∧
    (d.attempt = .granted → c.count = 2 → d.count ≤ 2 → c.request ≠ .pin → d.request ≠ .pin → cutStands s c = true →
      let exhausted (count : Nat) (excluded : List Nat) (c : Circuit) : Circuit :=
        { c with
          state := .stranded, reason := .attemptsExhausted, count := count, claimTimeout := none, waitToRestore := none,
          detour := none, attempt := .open, excluded := excluded }
      ∃ t, exec (.claimTimeoutExpiry c.id) s = .next t ∧ t.queue = [] ∧
        t.circuits = [exhausted 3 (if c.excluded.contains lane then c.excluded else c.excluded ++ [lane]) c,
          exhausted (d.count + 1) d.excluded d] ∧
        t.link = (offered d.detourDir (releaseOf s d lane') (offered c.detourDir (releaseOf s c lane) s)).link ∧
        (entryMatches s c.detourDir lane c.id c.a c.tag = true →
          laneEntry t c.detourDir lane = some (freedEntry s c.detourDir)) ∧
        (entryMatches s d.detourDir lane' d.id d.a d.tag = true →
          laneEntry t d.detourDir lane' = some (freedEntry s d.detourDir)) ∧
        t.mgp.events = joinEvents s.clock (.circuitState d.id .stranded .claiming .attemptsExhausted)
          (joinEvents s.clock (.circuitState c.id .stranded .claiming .attemptsExhausted)
            (joinEvents s.clock (.claimRefused c.id .timeout s.nodeCode) s.mgp.events)))) ∧
  (∀ (s : State) (c : Circuit) (lane : Nat), s.running = true → s.work = [] → s.queue = [] → s.circuits = [c] →
    c.role = .head → c.bundle = 0 → c.detour = some lane →
    c.state = .retuning ∨ c.state = .detoured ∨ c.state = .waitRestore →
    let parks (t : State) : Prop := t.queue = [] ∧ Withdrawn c lane s t ∧ t.lsd = s.lsd
    let faulted (port : Nat) : Port :=
      { portAt s port with
        faultInd := true, state := .fault, present := none, target := none, request := .none, homeCount := 0 }
    (∀ (changes : List SpanChange) (rest : List CclHand) (span : Nat) (old : SpanStatus) (reason : Reason),
      s.toCcl = ⟨none, false, changes, none⟩ :: rest → .status span old .failed ∈ changes → span ∈ detourArc s c →
      statusOf s span = .failed → c.request ≠ .pin → cutStands s c = true → c.cls ≠ .none → circuitFault s c = some reason →
      ∃ t, exec .cclSpanChange s = .next t ∧ parks t ∧
        t.circuits = [{ c with
          state := .stranded, reason := reason, count := 0, excluded := [], parked := some lane, detour := none,
          claimTimeout := none, waitToRestore := none }] ∧
        t.tpc = s.tpc ∧ t.mgp.events = joinEvents s.clock (.circuitState c.id .stranded c.state reason) s.mgp.events) ∧
    (∀ port, s.inRun = true → port < 12 → s.tpc.ports.length = 12 → (portAt s port).owner = some c.id →
      (portAt s port).faultInd = false → (portAt s port).state ≠ .fault → s.tpc.waiting = [] → c.request ≠ .manual →
      ∃ t, exec (.portFaultOnset port) s = .next t ∧ parks t ∧
        t.circuits = [{ c with
          state := .stranded, reason := .portFault, parked := some lane, detour := none, claimTimeout := none,
          waitToRestore := none }] ∧
        portAt t port = faulted port ∧
        t.mgp.events = joinEvents s.clock (.circuitState c.id .stranded c.state .portFault)
          (joinEvents s.clock (.portFault port (portAt s port).state) s.mgp.events))) ∧
  (∀ (s : State) (c : Circuit) (lane port : Nat), s.work = [] → s.queue = [] → s.circuits = [c] → c.role = .head →
    c.bundle = 0 → c.detour = some lane → c.state = .claiming → c.attempt = .open → s.inRun = true → port < 12 →
    s.tpc.ports.length = 12 → (portAt s port).owner = some c.id → (portAt s port).faultInd = false →
    (portAt s port).state ≠ .fault → s.tpc.waiting = [] → c.request ≠ .manual →
    ∃ t, exec (.portFaultOnset port) s = .next t ∧ t.queue = [] ∧ Withdrawn c lane s t ∧
      t.circuits = [{ c with
        state := .stranded, reason := .portFault, detour := none, claimTimeout := none, waitToRestore := none,
        attempt := .open }] ∧
      t.mgp.events = joinEvents s.clock (.circuitState c.id .stranded .claiming .portFault)
        (joinEvents s.clock (.claimRefused c.id .portFault s.nodeCode)
          (joinEvents s.clock (.portFault port (portAt s port).state) s.mgp.events)))

/-! ## Detour Claim Engine (08) -/

/-- The hand-offs to the Detour Claim Engine are taken from the front of its list: a Locked change makes the Free entries of a
side that faces the span Blocked, or the Blocked ones Free; a span's change to Failed frees every entry of a claim that this
node only carries or ends and whose arc holds the span; a restart frees every entry whose head is the node. Each freed entry
that was Held at a transit has its Pass undone by a Block written to the lane switch; no other setting, no other entry and no
other block changes. (That a hand-off waits in a list is the model's inference, Log 4.) -/
def Obligations.DceHandOffsBlockAndFree : Prop :=
  (∀ (s : State) (i : Ident) (span : Nat) (set : Bool) (rest : List DceHand), s.running = true → s.ident = some i →
    s.toDce = .locked span set :: rest →
    let mark (side : Side) (es : List LaneEntry) : List LaneEntry :=
      if i.span side = span then
        es.map fun e => if e = .free ∨ e = .blocked then (if set then .blocked else .free) else e
      else es
    exec .dceLockedChange s =
      .next { s.setToDce rest with lanes := ⟨mark .east s.lanes.east, mark .west s.lanes.west⟩ }) ∧
  (∀ (s : State) (span : Nat) (old new : SpanStatus) (rest : List DceHand), s.running = true → new ≠ .failed →
    s.toDce = .status span old new :: rest → exec .selfClean s = .next (s.setToDce rest)) ∧
  (∀ (s : State) (c : Instr) (hand : DceHand) (rest : List DceHand) (broken : Claim → Prop), s.running = true →
    s.toDce = hand :: rest →
    (c = .selfClean ∧ (∃ span old, hand = .status span old .failed ∧
        broken = fun x => x.head ≠ s.node ∧ span ∈ arcSpans s.ring x.head x.tail x.dir) ∨
      c = .dceRestart ∧ ∃ node, hand = .restart node ∧ broken = fun x => x.head = node) →
    ∃ t, exec c s = .next t ∧ t = { s.setToDce rest with lanes := t.lanes, lsd := t.lsd } ∧
      (∀ side lane x, claimAt s side lane = some x → broken x → laneEntry t side lane = some (freedEntry s side)) ∧
      (∀ side lane, (∀ y x, claimAt s y lane = some x → ¬ broken x) → laneEntry t side lane = laneEntry s side lane) ∧
      ((∀ side other lane x y, laneEntry s side lane = some (.held x) → claimAt s other lane = some y → broken y →
        isTransit s x = false) → t.lsd = s.lsd) ∧
      ((∀ side, (s.lsd.table.get side).length = 48) →
        (∀ side lane x, laneEntry s side lane = some (.held x) → broken x → isTransit s x = true →
          t.lsd.record side lane =
            if (s.lsd.record side lane).latest = .pass then (s.lsd.record side lane).written .block none
            else s.lsd.record side lane) ∧
        (∀ side lane, (∀ y x, claimAt s y lane = some x → ¬ broken x) →
          t.lsd.record side lane = s.lsd.record side lane)))

/-- The claim family at a settled node that is neither end, in RUN. A Detour Claim that a check stops is refused towards its
head with the reason of the first of the seven ordered checks that fails; one that passes over two Free entries is Pending on both and goes on, and over the two
entries of one weaker claim it bumps that claim first: a Refusal with Preempted towards its head, a Release towards its tail.
A Grant of two Pending entries makes both Held, asks for Pass and goes on, and is discarded otherwise. A Refusal, or a
Release, frees every matching entry, undoes the Pass of a Held one and goes on, whether or not one matched. A claim or Grant
handed back frees both entries and is answered by a Refusal with LinkDown, or a Release. A frame that is back where it began,
or that has a field outside its range, is discarded. In LISTEN every claim is refused with NodeUnplanned, whoever its head is, Grants are discarded, Refusals and
Releases go on unless they are back where they began, and nothing is freed (that reading of R14 and R128 is the model's, Log
15). A pending expiry frees every entry of its attempt and sends nothing; a head's own is a Refusal with Timeout.
-/
def Obligations.ClaimFramesAtATransit : Prop :=
  (∀ (s : State) (arrival : Side) (f : Frame) (l : Link) (m : Attempted) (i : Ident), s.running = true →
    s.pld.mode = .run → s.ident = some i → Settled s →
    takeHeld FrameKind.isClaimFamily (s.linkAt arrival) = some (f, l) → decodeAttempted s f.body = some m →
    m.head ≠ i.node → m.tail ≠ i.node →
    let taken := s.setLink arrival l
    let hops := frameHops f - 1
    let onward : Frame := ⟨f.kind, f.body.dropLast ++ [byte hops]⟩
    let both (e w : LaneEntry) : State := setLane .west m.lane w (setLane .east m.lane e taken)
    let refusal (reason : Reason) : Frame :=
      ⟨.refusal, bytes2 m.id ++ [byte m.head, byte m.tail, byte m.dir.code, byte m.lane, byte m.tag, byte reason.code,
        byte i.node, byte (hopsToHead s m)]⟩
    let others (t : State) : Prop := ∀ side lane, lane ≠ m.lane → laneEntry t side lane = laneEntry s side lane
    (∀ key reason, f.kind = .detourClaim → decodeKey m f.body = some key →
      transitFault taken arrival m key hops = some reason →
      exec (.detourClaim arrival) s = .next (offered arrival (refusal reason) taken)) ∧
    (∀ key, f.kind = .detourClaim → decodeKey m f.body = some key → transitFault taken arrival m key hops = none →
      m.dir = arrival.other →
      let entry : LaneEntry := .pending ⟨m.id, m.head, m.tail, m.dir, m.tag, key.urgency, key.rank, key.priority⟩
        (min (s.clock + 2 * s.plan.claimTimeout) 0xFFFFFFFFFFFF)
      let reserved (t : State) : Prop := laneEntry t .east m.lane = some entry ∧ laneEntry t .west m.lane = some entry ∧ others t
      (laneEntry s .east m.lane = some .free → laneEntry s .west m.lane = some .free →
        ((s.linkAt m.dir).state = .up →
          ∃ t, exec (.detourClaim arrival) s = .next t ∧ t = { taken with lanes := t.lanes, link := t.link } ∧
            reserved t ∧ t.link = (offered m.dir onward taken).link) ∧
        ((s.linkAt m.dir).state ≠ .up →
          ∃ t, exec (.detourClaim arrival) s = .next t ∧ t = { taken with lanes := t.lanes, link := t.link } ∧
            laneEntry t .east m.lane = some (freedEntry s .east) ∧ laneEntry t .west m.lane = some (freedEntry s .west) ∧
            others t ∧ t.link = (offered arrival (refusal .linkDown) taken).link)) ∧
      (∀ (x : Claim) (held : Bool) (d d' : Nat), x.id ≠ m.id → x.head ≠ i.node → x.tail ≠ i.node →
        laneEntry s .east m.lane = some (if held then .held x else .pending x d) →
        laneEntry s .west m.lane = some (if held then .held x else .pending x d') → (s.linkAt m.dir).state = .up →
        ∃ t, exec (.detourClaim arrival) s = .next t ∧ t = { taken with lanes := t.lanes, lsd := t.lsd, link := t.link } ∧
          reserved t ∧
          t.lsd = (if held then (s.lsd.undo .east m.lane .pass none).undo .west m.lane .pass none else s.lsd) ∧
          t.link = (offered m.dir onward
            (offered x.dir
              ⟨.release, bytes2 x.id ++ [byte x.head, byte x.tail, byte x.dir.code, byte m.lane, byte x.tag,
                byte (hopsToTail s (x.attempted m.lane))]⟩
              (offered x.dir.other
                ⟨.refusal, bytes2 x.id ++ [byte x.head, byte x.tail, byte x.dir.code, byte m.lane, byte x.tag,
                  byte Reason.preempted.code, byte i.node, byte (hopsToHead s (x.attempted m.lane))]⟩ taken))).link)) ∧
    (f.kind = .grant →
      (∀ e w d d', hops ≠ 0 → laneEntry s .east m.lane = some (.pending e d) →
        laneEntry s .west m.lane = some (.pending w d') → e.matches m.id m.head m.tag = true →
        w.matches m.id m.head m.tag = true →
        let passed := (s.lsd.write .east m.lane .pass none).write .west m.lane .pass none
        ((taken.linkAt m.dir.other).state = .up →
          exec (.grant arrival) s =
            .next (offered m.dir.other onward ((both (.held e) (.held w)).setLsd passed))) ∧
        ((taken.linkAt m.dir.other).state ≠ .up → isTransit s e = true → isTransit s w = true →
          ∃ t, exec (.grant arrival) s = .next t ∧ t = { taken with lanes := t.lanes, lsd := t.lsd, link := t.link } ∧
            laneEntry t .east m.lane = some (freedEntry s .east) ∧ laneEntry t .west m.lane = some (freedEntry s .west) ∧
            others t ∧ t.lsd = (passed.undo .east m.lane .pass none).undo .west m.lane .pass none ∧
            t.link = (offered m.dir
              ⟨.release, bytes2 m.id ++ [byte m.head, byte m.tail, byte m.dir.code, byte m.lane, byte m.tag,
                byte (hopsToTail s m)]⟩ taken).link)) ∧
      (hops = 0 ∨ (∃ side, ∀ x d, laneEntry s side m.lane = some (.pending x d) → x.matches m.id m.head m.tag = false) →
        exec (.grant arrival) s = .next taken)) ∧
    (∀ c out, (f.kind = .refusal ∧ c = .refusal arrival ∧ out = m.dir.other ∧
        (∃ reason, Reason.ofCode (field1 f.body 7) = some reason) ∨
        f.kind = .release ∧ c = .release arrival ∧ out = m.dir) →
      ∃ t, exec c s = .next t ∧ t = { taken with lanes := t.lanes, lsd := t.lsd, link := t.link } ∧
        FreesAttempt m.lane m.id m.head m.tag s t ∧
        t.lsd = undoPass s .west m.lane m.id m.head m.tag (undoPass s .east m.lane m.id m.head m.tag s.lsd) ∧
        t.link = if hops = 0 then taken.link else (offered out onward taken).link)) ∧
  (∀ (s : State) (arrival : Side) (f : Frame) (l : Link) (m : Attempted) (c : Instr), s.running = true → Settled s →
    takeHeld FrameKind.isClaimFamily (s.linkAt arrival) = some (f, l) → decodeAttempted s f.body = some m →
    (f.kind = .detourClaim ∧ c = .detourClaim arrival ∧ (∃ key, decodeKey m f.body = some key) ∨
      f.kind = .grant ∧ c = .grant arrival ∨
      f.kind = .refusal ∧ c = .refusal arrival ∧ (∃ reason, Reason.ofCode (field1 f.body 7) = some reason) ∨
      f.kind = .release ∧ c = .release arrival) →
    let taken := s.setLink arrival l
    let onward : Frame := ⟨f.kind, f.body.dropLast ++ [byte (frameHops f - 1)]⟩
    let here (node : Nat) : Prop := ∃ i, s.ident = some i ∧ i.node = node
    let start := if f.kind = .detourClaim ∨ f.kind = .release then m.head else m.tail
    (s.pld.mode = .run ∨ f.kind = .refusal ∨ f.kind = .release → here start → exec c s = .next taken) ∧
    (s.pld.mode = .listen →
      (f.kind = .detourClaim → exec c s = .next (offered arrival
        ⟨.refusal, bytes2 m.id ++ [byte m.head, byte m.tail, byte m.dir.code, byte m.lane, byte m.tag,
          byte Reason.nodeUnplanned.code, s.nodeCode, byte (hopsToHead s m)]⟩ taken)) ∧
      (f.kind = .grant → exec c s = .next taken) ∧
      (f.kind = .refusal ∨ f.kind = .release → ¬ here start →
        exec c s = .next (if frameHops f - 1 = 0 then taken else offered arrival.other onward taken)))) ∧
  (∀ (s : State) (side : Side) (lane : Nat) (x : Claim) (d : Nat), s.running = true →
    laneEntry s side lane = some (.pending x d) → due s (some d) = true →
    (∃ t, exec (.pendingExpiry side lane) s = .next t ∧ Quiet s t) ∧
    ((∀ y, laneEntry s side.other lane = some (.held y) → y.matches x.id x.head x.tag = false) →
     (x.head ≠ s.node → Settled s →
       ∃ t, exec (.pendingExpiry side lane) s = .next t ∧ t = { s with lanes := t.lanes } ∧
         FreesAttempt lane x.id x.head x.tag s t) ∧
     (∀ c, x.head = s.node → s.work = [] → s.queue = [] → s.circuits = [c] → c.id = x.id → c.role = .head → c.bundle = 0 →
       c.state = .claiming → c.detour = some lane → c.tag = x.tag → c.attempt = .open → c.count = 2 → c.request ≠ .pin →
       cutStands s c = true →
       ∃ t, exec (.pendingExpiry side lane) s = .next t ∧ FreesAttempt lane x.id x.head x.tag s t ∧ t.link = s.link ∧
         t.lsd = s.lsd ∧ t.circuits = [{ c with
           state := .stranded, reason := .attemptsExhausted, count := 3, claimTimeout := none, waitToRestore := none,
           detour := none, attempt := .open,
           excluded := if c.excluded.contains lane then c.excluded else c.excluded ++ [lane] }] ∧
         t.mgp.events = joinEvents s.clock (.circuitState c.id .stranded .claiming .attemptsExhausted)
           (joinEvents s.clock (.claimRefused c.id .timeout s.nodeCode) s.mgp.events)))) ∧
  (∀ (s : State) (arrival : Side) (f : Frame) (l : Link) (c : Instr), s.running = true → Settled s →
    takeHeld FrameKind.isClaimFamily (s.linkAt arrival) = some (f, l) →
    (f.kind = .detourClaim ∧ c = .detourClaim arrival ∨ f.kind = .grant ∧ c = .grant arrival ∨
      f.kind = .refusal ∧ c = .refusal arrival ∨ f.kind = .release ∧ c = .release arrival) →
    let limit := (s.ident.map (·.ring)).getD 24
    let at' := field1 f.body
    (limit ≤ at' 2 ∨ limit ≤ at' 3 ∨ at' 2 = at' 3 ∨ 1 < at' 4 ∨ 7 < at' 6 ∨
      f.kind = .detourClaim ∧ (3 < at' 7 ∨ 2 < at' 8 ∨ 7 < at' 9) ∨
      f.kind = .refusal ∧ (at' 7 = 0 ∨ 0x0A < at' 7)) →
    exec c s = .next (s.setLink arrival l)) ∧
  (∀ (s : State) (arrival : Side) (m : Attempted) (key : Key) (hops : Nat),
    let open' (side : Side) : Bool := (laneEntry s side m.lane).any fun e => e.takeable key m.head
    transitFault s arrival m key hops = firstFailing
      [(.laneNotSpare, s.plan.spareBase ≤ m.lane && m.lane < 48),
       (.hopExhausted, 0 < hops),
       (.spanUnusable, (arcSpans s.ring m.head m.tail m.dir).all fun i => statusOf s i ≠ .failed),
       (.spanUnusable, statusOf s (s.sideSpan m.dir) = .usable),
       (.spanLocked, !lockedOf s (s.sideSpan m.dir)),
       (.spanLocked, laneEntry s arrival m.lane ≠ some .blocked && laneEntry s m.dir m.lane ≠ some .blocked),
       (.laneBusy, open' arrival && open' m.dir)])

/-- The claim family at the ends, on a node of one record. At the head a Grant of its Pending entry makes it Held and starts the
retune and the settings of the detour, in RETUNING; a Grant that finds no matching entry is answered by a Release, one of a
Held entry is discarded. A Refusal of the head's Pending entry frees it, and one that forbids another try strands the head; a
Refusal of its Held entry is the loss of the detour: home when nothing wants it, else a new episode with the lane excluded,
which strands when there is no way round. At the tail a Detour Claim that passes every check on a Free entry is Held there,
starts the same and is answered by a Grant, and one that a check stops is refused with the reason of the first of the six
ordered checks that fails; a Release of the tail's detour frees its entry and turns the tail home, and one of
another lane or tag only frees. In a bundle of two a Grant is held until the other member's, and then both retune; a member's
loss takes both home, the other's detour withdrawn. -/
def Obligations.ClaimFramesAtTheEnds : Prop :=
  (∀ (s : State) (arrival : Side) (f : Frame) (l : Link) (m : Attempted) (i : Ident) (c : Circuit), s.running = true →
    s.pld.mode = .run → s.ident = some i → s.work = [] → s.queue = [] → s.circuits = [c] → c.id = m.id → c.bundle = 0 →
    takeHeld FrameKind.isClaimFamily (s.linkAt arrival) = some (f, l) → decodeAttempted s f.body = some m →
    let taken := s.setLink arrival l
    let retunes (t : State) : Prop :=
      portAt t c.portNo = { portAt s c.portNo with target := some m.lane, request := .step, state := .stepping } ∧
      t.lsd =
        (s.lsd.undo c.workSide c.lane (.addDrop c.portNo) none).write c.detourSide m.lane (.addDrop c.portNo) (some c.id) ∧
      t.mgp.events = joinEvents s.clock (.circuitState c.id .retuning c.state .none) s.mgp.events ∧
      t.queue = [] ∧ t.pld = s.pld ∧ t.nrv = s.nrv ∧ t.mon = s.mon ∧ t.clock = s.clock
    (f.kind = .grant → m.head = i.node → m.tail ≠ i.node →
      (∀ x d, mayStepAtOnce s c.portNo m.lane → c.role = .head → c.state = .claiming →
        c.detour = some m.lane → c.tag = m.tag → c.attempt = .open → c.parked = none → c.detourDir = m.dir →
        laneEntry s m.dir m.lane = some (.pending x d) → x.matches m.id m.head m.tag = true →
        arcFailed s (detourArc s c) = false →
        ∃ t, exec (.grant arrival) s = .next t ∧ retunes t ∧ t.link = taken.link ∧
          laneEntry t m.dir m.lane = some (.held x) ∧
          t.circuits = [{ c with
            state := .retuning, reason := .none, claimTimeout := none, waitToRestore := none, parked := none,
            attempt := .open, retuned := false, inEffect := false }]) ∧
      (entryMatches s m.dir m.lane m.id m.head m.tag = false → exec (.grant arrival) s = .next (offered m.dir
        ⟨.release, bytes2 m.id ++ [byte m.head, byte m.tail, byte m.dir.code, byte m.lane, byte m.tag,
          byte (hopsToTail s m)]⟩ taken)) ∧
      (∀ x, laneEntry s m.dir m.lane = some (.held x) → x.matches m.id m.head m.tag = true →
        exec (.grant arrival) s = .next taken)) ∧
    (∀ reason, f.kind = .refusal → m.head = i.node → m.tail ≠ i.node → Reason.ofCode (field1 f.body 7) = some reason →
      let freed := setLane m.dir m.lane (freedEntry s m.dir) taken
      (entryMatches s m.dir m.lane m.id m.head m.tag = false → exec (.refusal arrival) s = .next taken) ∧
      (∀ x d, laneEntry s m.dir m.lane = some (.pending x d) → x.matches m.id m.head m.tag = true → c.role = .head →
        c.state = .claiming → c.detour = some m.lane → c.tag = m.tag → c.attempt = .open → c.request ≠ .manual →
        reason ≠ .laneBusy → reason ≠ .preempted →
        exec (.refusal arrival) s = .next (post (.circuitState c.id .stranded .claiming reason)
          (post (.claimRefused c.id reason (byteAt f.body 8)) (freed.setCircuits [{ c with
            state := .stranded, reason := reason, detour := none, claimTimeout := none, waitToRestore := none,
            attempt := .open }])))) ∧
      (∀ x, laneEntry s m.dir m.lane = some (.held x) → x.matches m.id m.head m.tag = true → c.role = .head →
        c.state = .retuning ∨ c.state = .detoured ∨ c.state = .waitRestore → c.detour = some m.lane → c.tag = m.tag →
        (wanted s [c.id] = none → mayStepAtOnce s c.portNo c.lane →
          ∃ t, exec (.refusal arrival) s = .next t ∧ TurnsHome c m.lane s t ∧ t.link = taken.link ∧
            t.lanes = freed.lanes) ∧
        (∀ why, c.request ≠ .pin → cutStands s c = true → c.cls ≠ .none → circuitFault s c = some why →
          exec (.refusal arrival) s = .next (post (.circuitState c.id .stranded c.state why) (freed.setCircuits [{ c with
            state := .stranded, reason := why, count := 0, excluded := [m.lane], parked := some m.lane, detour := none,
            claimTimeout := none, waitToRestore := none }]))))) ∧
    (∀ key, f.kind = .detourClaim → decodeKey m f.body = some key → m.head ≠ i.node → m.tail = i.node →
      mayStepAtOnce s c.portNo m.lane →
      c.role = .tail → c.state = .working → tailFault taken arrival m key = none → arrival = c.detourSide →
      laneEntry s arrival m.lane = some .free →
      (∀ side lane x, claimAt s side lane = some x → ¬ (x.id = m.id ∧ x.head = m.head)) →
      ∃ t, exec (.detourClaim arrival) s = .next t ∧ retunes t ∧
        t.link = (offered arrival
          ⟨.grant, bytes2 m.id ++ [byte m.head, byte m.tail, byte m.dir.code, byte m.lane, byte m.tag,
            byte (hopsToHead s m)]⟩ taken).link ∧
        laneEntry t arrival m.lane =
          some (.held ⟨m.id, m.head, m.tail, m.dir, m.tag, key.urgency, key.rank, key.priority⟩) ∧
        t.circuits = [{ c with
          state := .retuning, reason := .none, waitToRestore := none, detour := some m.lane, tag := m.tag,
          headNode := m.head, retuned := false, inEffect := false }]) ∧
    (f.kind = .release → m.head ≠ i.node → m.tail = i.node → c.role = .tail →
      (∀ side x, laneEntry s side m.lane = some (.held x) → x.matches m.id m.head m.tag = true → isTransit s x = false) →
      (c.state = .retuning ∨ c.state = .detoured → c.detour = some m.lane → c.tag = m.tag →
        mayStepAtOnce s c.portNo c.lane →
        ∃ t, exec (.release arrival) s = .next t ∧ TurnsHome c m.lane s t ∧ t.link = taken.link ∧
          FreesAttempt m.lane m.id m.head m.tag s t) ∧
      (c.detour ≠ some m.lane ∨ c.tag ≠ m.tag ∨ c.state ≠ .retuning ∧ c.state ≠ .detoured →
        ∃ t, exec (.release arrival) s = .next t ∧ t = { taken with lanes := t.lanes } ∧
          FreesAttempt m.lane m.id m.head m.tag s t))) ∧
  (∀ (s : State) (arrival : Side) (f : Frame) (l : Link) (m : Attempted) (i : Ident) (c d : Circuit) (lane' : Nat) (x : Claim),
    s.running = true → s.pld.mode = .run → s.ident = some i → s.work = [] → s.queue = [] → s.circuits = [c, d] →
    c.id = m.id → d.id ≠ c.id → c.role = .head → d.role = .head → c.bundle ≠ 0 → d.bundle = c.bundle →
    takeHeld FrameKind.isClaimFamily (s.linkAt arrival) = some (f, l) → decodeAttempted s f.body = some m →
    m.head = i.node → m.tail ≠ i.node → c.detourDir = m.dir → d.detourDir = m.dir → c.detour = some m.lane →
    d.detour = some lane' → lane' ≠ m.lane → c.tag = m.tag → x.matches m.id m.head m.tag = true → c.portNo ≠ d.portNo →
    let taken := s.setLink arrival l
    (∀ due, f.kind = .grant → c.state = .claiming → d.state = .claiming → c.attempt = .open →
      laneEntry s m.dir m.lane = some (.pending x due) →
      (d.attempt = .open → exec (.grant arrival) s = .next
        ((setLane m.dir m.lane (.held x) taken).setCircuits [{ c with attempt := .granted, claimTimeout := none }, d])) ∧
      (d.attempt = .granted → standsAway s c.portNo m.lane → standsAway s d.portNo lane' →
        arcFailed s (detourArc s c) = false → arcFailed s (detourArc s d) = false →
        let moved (c : Circuit) : Circuit :=
          { c with
            state := .retuning, reason := .none, claimTimeout := none, waitToRestore := none, parked := none,
            attempt := .open, retuned := false, inEffect := false }
        ∃ t, exec (.grant arrival) s = .next t ∧ t.circuits = [moved c, moved d] ∧ t.link = taken.link ∧
          laneEntry t m.dir m.lane = some (.held x) ∧
          t.mgp.events = joinEvents s.clock (.circuitState d.id .retuning .claiming .none)
            (joinEvents s.clock (.circuitState c.id .retuning .claiming .none) s.mgp.events))) ∧
    (∀ reason, f.kind = .refusal → Reason.ofCode (field1 f.body 7) = some reason →
      laneEntry s m.dir m.lane = some (.held x) → c.state = .detoured → d.state = .detoured →
      wanted s [c.id, d.id] = none → standsAway s c.portNo c.lane → standsAway s d.portNo d.lane →
      let turned (lane : Nat) (c : Circuit) : Circuit :=
        { c with
          state := .reverting, reason := .none, detour := some lane, parked := none, waitToRestore := none,
          claimTimeout := none, retuned := false, inEffect := false }
      ∃ t, exec (.refusal arrival) s = .next t ∧ t.circuits = [turned m.lane c, turned lane' d] ∧
        t.link = (offered d.detourDir (releaseOf s d lane') taken).link ∧
        laneEntry t m.dir m.lane = some (freedEntry s m.dir) ∧
        (entryMatches s m.dir lane' d.id d.a d.tag = true → laneEntry t m.dir lane' = some (freedEntry s m.dir)) ∧
        t.mgp.events = joinEvents s.clock (.circuitState d.id .reverting .detoured .none)
          (joinEvents s.clock (.circuitState c.id .reverting .detoured .none) s.mgp.events))) ∧
  (∀ (s : State) (arrival : Side) (m : Attempted) (key : Key),
    let record := s.circuits.find? fun c => c.id = m.id ∧ c.role = .tail ∧ c.headNode = m.head ∧ c.detourSide = arrival
    tailFault s arrival m key = firstFailing
      [(.laneNotSpare, s.plan.spareBase ≤ m.lane && m.lane < 48),
       (.unknownCircuit, record.isSome),
       (.spanUnusable, (arcSpans s.ring m.head m.tail m.dir).all fun i => statusOf s i ≠ .failed),
       (.portFault, record.all fun c => (portAt s c.portNo).state ≠ .fault),
       (.spanLocked, laneEntry s arrival m.lane ≠ some .blocked),
       (.laneBusy, (laneEntry s arrival m.lane).any fun e => e.takeable key m.head)]) ∧
  (∀ (s : State) (arrival : Side) (f : Frame) (l : Link) (m : Attempted) (i : Ident) (key : Key) (reason : Reason),
    s.running = true → s.pld.mode = .run → s.ident = some i → Settled s →
    takeHeld FrameKind.isClaimFamily (s.linkAt arrival) = some (f, l) → decodeAttempted s f.body = some m →
    f.kind = .detourClaim → decodeKey m f.body = some key → m.head ≠ i.node → m.tail = i.node →
    tailFault (s.setLink arrival l) arrival m key = some reason →
    exec (.detourClaim arrival) s = .next (offered arrival
      ⟨.refusal, bytes2 m.id ++ [byte m.head, byte m.tail, byte m.dir.code, byte m.lane, byte m.tag, byte reason.code,
        byte i.node, byte (hopsToHead s m)]⟩ (s.setLink arrival l)))

/-! ## Lane Switch Driver and Tunable Port Controller (09) -/

/-- LSACK is recorded; ready with nothing in transfer, it starts the oldest message. At a transfer's end the record whose
pending setting the message carries enters SETTLING with the settle deadline and its further messages leave the bus list;
another record waits on; the next message starts when LSACK shows ready. A settle deadline's expiry brings the setting into
effect and tells the requesters: as the second completion it brings a retuning circuit to DETOURED and a reverting one to
WORKING, where a head that wants no detour stays. (That the command carries
the level of LSACK is the model's choice, Log 20.) -/
def Obligations.BusTransfersSettle : Prop :=
  (∀ (s : State) (ready : Bool), s.running = true →
    (ready = false ∨ s.lsd.transfer ≠ none ∨ s.lsd.bus = [] →
      exec (.lsackReady ready) s = .next (s.setLsd { s.lsd with ackReady := ready })) ∧
    (∀ m rest, ready = true → s.lsd.transfer = none → s.lsd.bus = m :: rest →
      exec (.lsackReady ready) s = .next (s.setLsd { s.lsd with ackReady := true, bus := rest, transfer := some m }))) ∧
  (∀ (s : State) (m : BusMessage), s.running = true → s.lsd.transfer = some m →
    let r := s.lsd.record m.side m.lane
    let left := if r.pending = some m.setting then s.lsd.bus.filter fun x => ¬ (x.side = m.side ∧ x.lane = m.lane)
      else s.lsd.bus
    ∃ t, exec .busTransferEnd s = .next t ∧ t = s.setLsd t.lsd ∧ t.lsd.ackReady = s.lsd.ackReady ∧
      t.lsd.record m.side m.lane =
        (if r.pending = some m.setting then { r with phase := .settling, settle := arm s s.plan.settle } else r) ∧
      (∀ side lane, (side, lane) ≠ (m.side, m.lane) → t.lsd.record side lane = s.lsd.record side lane) ∧
      (s.lsd.ackReady = false ∨ left = [] → t.lsd.transfer = none ∧ t.lsd.bus = left) ∧
      (∀ next rest, s.lsd.ackReady = true → left = next :: rest → t.lsd.transfer = some next ∧ t.lsd.bus = rest)) ∧
  (∀ (s : State) (side : Side) (lane : Nat), s.running = true → due s (s.lsd.record side lane).settle = true →
    let r := s.lsd.record side lane
    let effective := s.setLsd (s.lsd.setRecord side lane ⟨r.pending.getD r.setting, none, .inEffect, none, []⟩)
    (∃ t, exec (.settleExpiry side lane) s = .next t ∧ Quiet s t) ∧
    (r.requesters = [] → Settled s → exec (.settleExpiry side lane) s = .next effective) ∧
    (∀ c, r.requesters = [c.id] → s.work = [] → s.queue = [] → s.circuits = [c] → c.bundle = 0 → c.retuned = true →
      (c.role = .tail ∨ c.role = .head ∧ c.revertive = false → c.state = .retuning → c.detour = some lane →
        side = c.detourSide →
        exec (.settleExpiry side lane) s = .next (post (.circuitState c.id .detoured .retuning .none)
          (effective.setCircuits [{ c with
            state := .detoured, reason := .none, waitToRestore := none, inEffect := true }]))) ∧
      (c.role = .tail ∨ c.role = .head ∧ wanted s [c.id] = none → c.state = .reverting → lane = c.lane → side = c.workSide →
        exec (.settleExpiry side lane) s = .next (post (.circuitState c.id .working .reverting .none)
          (effective.setCircuits [{ c with
            state := .working, reason := .none, waitToRestore := none, detour := none, inEffect := true }])))))

/-- A homing step pulses down and counts; at sixty the port goes to FAULT. A step moves the present lane by one toward the
target; at the target the port frees its slot and is IDLE. The home indication in HOMING ends it at lane 0, or goes on toward
a held target. A fault's onset brings FAULT and PortFault; its end, like an indication not acted on, is recorded alone (in
START and LISTEN by the model's choice, Log 14). Also the model's choice: that the home indication is a level whose going away
is recorded (Log 20), that the last pulse is kept (Log 25), and that a free slot taken is the lowest one (Log 10). Rehome is
answered Listening, Busy, or Accepted with a homing begun. A port with an owner moves alike and its owner is told: a fault
leaves a circuit that wants no detour, or reverts, as it is; a homed port goes on to the working lane of a circuit in WORKING;
an arrival is a completion, and the second one brings DETOURED or WORKING. -/
def Obligations.PortsHomeStepAndFault : Prop :=
  ∀ (s : State) (port : Nat), s.tpc.ports.length = 12 → port < 12 →
    let p := portAt s port
    let freed : List Slot := match slotOf s port with
      | some i => modifyAt i (fun _ => ⟨none, none⟩) s.tpc.slots
      | none => s.tpc.slots
    let becomes (q : Port) (slots : List Slot) (waiting : List Nat) : State :=
      s.setTpc ⟨modifyAt port (fun _ => q) s.tpc.ports, slots, waiting⟩
    let quietPort := p.owner = none ∧ s.tpc.waiting = [] ∧ Settled s
    let faulted (q : Port) : Port :=
      { q with state := .fault, present := none, target := none, request := .none, homeCount := 0 }
    let owned (c : Circuit) : Prop := p.owner = some c.id ∧ s.circuits = [c] ∧ s.work = [] ∧ s.queue = [] ∧ s.tpc.waiting = []
    let rests (c : Circuit) : Prop := c.role = .head → c.state = .working ∧ c.bundle = 0 ∧ wanted s [c.id] = none
    (s.running = true → p.state = .homing → due s (stepDeadline s port) = true →
      (p.homeCount < 60 → Settled s → exec (.homingStepExpiry port) s = .next
        (armStep port (setPort port { p with lastPulse := some .down, homeCount := p.homeCount + 1 } s))) ∧
      (60 ≤ p.homeCount → quietPort ∨ (∃ c, owned c ∧ (rests c ∨ c.state = .reverting)) →
        exec (.homingStepExpiry port) s = .next (post (.portFault port .homing) (becomes (faulted p) freed [])))) ∧
    (∀ lane target, s.running = true → p.state = .stepping → due s (stepDeadline s port) = true →
      p.present = some lane → p.target = some target →
      let next := if lane < target then lane + 1 else lane - 1
      let stepped := { p with lastPulse := some (if lane < target then .up else .down), present := some next }
      (next ≠ target → Settled s → exec (.stepExpiry port) s = .next (armStep port (setPort port stepped s))) ∧
      (next = target → quietPort → exec (.stepExpiry port) s =
        .next (becomes { stepped with target := none, request := .none, state := .idle } freed [])) ∧
      (∀ c, next = target → owned c →
        let arrived := becomes { stepped with target := none, request := .none, state := .idle } freed []
        (c.state ≠ .retuning ∨ c.detour ≠ some target → c.state ≠ .reverting ∨ c.lane ≠ target →
          exec (.stepExpiry port) s = .next arrived) ∧
        (c.state = .retuning ∧ c.detour = some target ∨ c.state = .reverting ∧ c.lane = target → c.inEffect = false →
          exec (.stepExpiry port) s = .next (arrived.setCircuits [{ c with retuned := true }])) ∧
        (c.state = .retuning → c.detour = some target → c.inEffect = true →
          c.role = .tail ∨ c.role = .head ∧ c.bundle = 0 ∧ c.revertive = false →
          exec (.stepExpiry port) s = .next (post (.circuitState c.id .detoured .retuning .none) (arrived.setCircuits
            [{ c with state := .detoured, reason := .none, waitToRestore := none, retuned := true }]))) ∧
        (c.state = .reverting → c.lane = target → c.inEffect = true →
          c.role = .tail ∨ c.role = .head ∧ c.bundle = 0 ∧ wanted s [c.id] = none →
          exec (.stepExpiry port) s = .next (post (.circuitState c.id .working .reverting .none) (arrived.setCircuits
            [{ c with state := .working, reason := .none, waitToRestore := none, detour := none, retuned := true }])))) ∧
      (next = target → ∃ t, exec (.stepExpiry port) s = .next t ∧ Quiet s t)) ∧
    (s.inRun = true → p.state = .homing → p.homeInd = false →
      let home := { p with homeInd := true, present := some 0, homeCount := 0, request := .none }
      (p.target = none ∨ p.target = some 0 → quietPort → exec (.homeIndication port true) s =
        .next (post (.portHomed port) (becomes { home with target := none, state := .idle } freed []))) ∧
      (∀ target, 0 < target → p.target = some target → p.owner = none → Settled s →
        exec (.homeIndication port true) s =
          .next (post (.portHomed port) (armStep port (setPort port { home with request := .step, state := .stepping } s)))) ∧
      (∀ c, owned c → rests c → c.state = .working → c.parked = none → c.port = some port → c.lane < 48 →
        s.tpc.holds port = 1 →
        ∃ t, exec (.homeIndication port true) s = .next t ∧ t.circuits = [c] ∧
          t.mgp.events = joinEvents s.clock (.portHomed port) s.mgp.events ∧
          (c.lane = 0 → t.tpc = (becomes { home with target := none, state := .idle } freed []).tpc) ∧
          (c.lane ≠ 0 → portAt t port = { home with target := some c.lane, request := .step, state := .stepping } ∧
            stepDeadline t port = arm s s.plan.stepInterval)) ∧
      (∃ t, exec (.homeIndication port true) s = .next t ∧ Quiet s t)) ∧
    (∀ level, level = false ∨ p.homeInd = true ∨ p.state ≠ .homing ∨ s.inRun = false →
      exec (.homeIndication port level) s = .next (setPort port { p with homeInd := level } s)) ∧
    (s.inRun = true → p.faultInd = false → p.state ≠ .fault →
      (quietPort ∨ (∃ c, owned c ∧ (rests c ∨ c.state = .reverting)) → exec (.portFaultOnset port) s =
        .next (post (.portFault port p.state) (becomes (faulted { p with faultInd := true }) freed []))) ∧
      (∃ t, exec (.portFaultOnset port) s = .next t ∧ Quiet s t ∧
        PostsFrom s.clock (joinEvents s.clock (.portFault port p.state) s.mgp.events) t.mgp.events)) ∧
    (p.faultInd = true ∨ p.state = .fault ∨ s.inRun = false →
      exec (.portFaultOnset port) s = .next (setPort port { p with faultInd := true } s)) ∧
    exec (.portFaultEnd port) s = .next (setPort port { p with faultInd := false } s) ∧
    (∀ params, s.takesCommands → portParam params = some port →
      (s.pld.mode = .listen → exec (.rehomePort params) s = .next (owe ⟨.listening, [], false⟩ s)) ∧
      (s.pld.mode = .run → port ∈ s.tpc.waiting ∨ p.state = .homing ∨ p.state = .stepping ∨
          (p.state = .idle ∧ ∃ id c, p.owner = some id ∧ findCircuit s id = some c ∧
            (c.state = .retuning ∨ c.state = .detoured ∨ c.state = .waitRestore ∨ c.state = .reverting)) →
        exec (.rehomePort params) s = .next (owe ⟨.busy, [], false⟩ s)) ∧
      (s.pld.mode = .run → port ∉ s.tpc.waiting → p.state = .fault ∨ p.state = .unhomed ∨
          (p.state = .idle ∧ ∀ id c, p.owner = some id → findCircuit s id = some c →
            c.state = .working ∨ c.state = .queued ∨ c.state = .claiming ∨ c.state = .stranded) →
        (∃ t, exec (.rehomePort params) s = .next (owe ⟨.accepted, [], false⟩ t) ∧ Quiet s t) ∧
        (∀ i, freeSlotIndex s = some i → p.faultInd = false → p.homeInd = false → Settled s →
          exec (.rehomePort params) s = .next (owe ⟨.accepted, [], false⟩
            (becomes { p with target := none, request := .home, homeCount := 0, present := none, state := .homing }
              (modifyAt i (fun _ => ⟨some port, arm s s.plan.stepInterval⟩) s.tpc.slots) s.tpc.waiting))) ∧
        (freeSlotIndex s = none → Settled s →
          exec (.rehomePort params) s = .next (owe ⟨.accepted, [], false⟩
            (becomes { p with target := none, request := .home } s.tpc.slots (s.tpc.waiting ++ [port]))))))

/-! ## Management Port (11) -/

/-- The queries answer Done with the data of the state, and change nothing else; a span outside the ring, a side or lane
outside the map, an id without a record and a filter without a match are answered BadParameter, UnknownId and NoMatch. Circuit
Query's 46 bytes stand in the order of R199, FFh in each byte of a field that the role does not hold, of a disarmed deadline
and of an absent lane; a set of lanes has lane 0 as the least significant bit of its last byte. (The order inside the entries
that R184 and R185 name is read from R85, R147 and R163, and that of Plan Query from Circuit Query's, Log 13. The model's
choice: the places in the Span Query of a node without identity, Log 36, and the FFh of a present lane that is Unknown, Log
43.) -/
def Obligations.QueriesAnswerFromTheState : Prop :=
  ∀ (s : State) (p : List Byte), s.takesCommands →
    let done (c : Instr) (data : List Byte) : Prop := exec c s = .next (owe ⟨.done, data, false⟩ s)
    let refused (c : Instr) (status : Status) : Prop := exec c s = .next (owe ⟨status, [], false⟩ s)
    let key (x : Claim) : List Byte :=
      bytes2 x.id ++ [byte x.head, byte x.tail, byte x.dir.code, byte x.tag, byte x.urgency, byte x.rank, byte x.priority]
    (∀ span i, byteParam p = some span → s.ident = some i →
      (span < i.ring → done (.spanQuery p) (spanData i span s)) ∧ (i.ring ≤ span → refused (.spanQuery p) .badParameter)) ∧
    (∀ code, byteParam p = some code → s.ident = none →
      (∀ side : Side, code = side.code → done (.spanQuery p) (strangerData side s)) ∧
      (2 ≤ code → refused (.spanQuery p) .badParameter)) ∧
    (∀ id, idParam p = some id →
      (∀ c, findCircuit s id = some c → done (.circuitQuery p) (circuitData c) ∧ done (.planQuery p) (planData c)) ∧
      (findCircuit s id = none → refused (.circuitQuery p) .unknownId ∧ refused (.planQuery p) .unknownId)) ∧
    (∀ f, findParams p = some f →
      (∀ i c, f.start ≤ i → s.circuits[i]? = some c → findMatches f c = true →
        (∀ j d, f.start ≤ j → j < i → s.circuits[j]? = some d → findMatches f d = false) →
        done (.circuitFind p) (byte i :: bytes2 c.id)) ∧
      ((∀ j d, f.start ≤ j → s.circuits[j]? = some d → findMatches f d = false) → refused (.circuitFind p) .noMatch)) ∧
    (∀ side lane, laneParams p = some (side, lane) →
      (∀ e, laneEntry s side lane = some e → done (.laneQuery p) (laneData e)) ∧
      (lane < s.plan.spareBase ∨ 48 ≤ lane → refused (.laneQuery p) .badParameter)) ∧
    (∀ port, portParam p = some port → done (.portQuery p) (portData port s)) ∧
    (∀ f c, findMatches f c = true ↔
      (∀ r, f.role = some r → c.role.code = r) ∧ (∀ b, f.bundle = some b → c.bundle = b) ∧
      (∀ t, f.state = some t → c.role ≠ .transit ∧ c.state.code = t)) ∧
    (∀ c, circuitData c =
      bytes2 c.id ++ [byte c.a, byte c.z, byte c.dir.code, byte c.lane] ++
      (match c.role with
        | .head => [0x00, byte c.dir.code, byte c.dir.other.code]
        | .tail => [0x01, byte c.dir.other.code, byte c.dir.code]
        | .transit => [0x02, 0x02, 0xFF]) ++
      [byte c.planClass.rank, byte c.cls.rank, byte (c.preplanned.getD 0xFF), byte c.priority, byte c.bundle,
        if c.revertive then 0x01 else 0x00] ++ bytes2 c.ceiling ++ bytes2 c.allowance ++ [byte (c.port.getD 0xFF)] ++
      (match c.role with
        | .head => [byte c.state.code, byte c.request.code, byte (c.detour.getD 0xFF), byte (c.parked.getD 0xFF), byte c.tag,
            byte c.count] ++ laneSet c.excluded ++ deadlineBytes c.claimTimeout ++ deadlineBytes c.waitToRestore ++
            [0xFF, byte c.reason.code]
        | .tail => [byte c.state.code, 0xFF, byte (c.detour.getD 0xFF), 0xFF, byte c.tag] ++ List.replicate 19 0xFF ++
            [byte c.headNode, 0xFF]
        | .transit => List.replicate 26 0xFF)) ∧
    (∀ c, planData c = bytes2 c.id ++ [byte c.a, byte c.z, byte c.dir.code, byte c.lane, byte c.planClass.rank,
      byte (c.preplanned.getD 0xFF), byte c.priority, byte c.bundle, if c.revertive then 0x01 else 0x00] ++
      bytes2 c.ceiling ++ bytes2 c.allowance ++ [byte (c.port.getD 0xFF)]) ∧
    (∀ v : Nat, deadlineBytes (some v) = bytes6 v ∧ deadlineBytes none = List.replicate 6 0xFF) ∧
    (∀ (lanes : List Nat) (lane : Nat), lane < 48 →
      (laneSet lanes)[5 - lane / 8]?.map (fun b => b.toNat.testBit (lane % 8)) = some (lanes.contains lane)) ∧
    (laneData .free = 0x00 :: List.replicate 15 0xFF ∧ laneData .blocked = 0x01 :: List.replicate 15 0xFF) ∧
    (∀ x d, laneData (.pending x d) = 0x02 :: key x ++ bytes6 d) ∧
    (∀ x, laneData (.held x) = 0x03 :: key x ++ List.replicate 6 0xFF) ∧
    (∀ c, (circuitData c).length = 46) ∧ (∀ i span, (spanData i span s).length = 23) ∧
    (∀ e, (laneData e).length = 16) ∧ ∀ port, (portData port s).length = 9

/-- Circuit Requests: UnknownId without a record, NotHead at another role, NotRestorable for Forced and Manual at class None;
otherwise Done, with the request taken in the same step. Pin, and Clear with nothing wanted, store the request of a WORKING
head; Forced and Manual of one whose question fails strand it with the planner's reason, and a Manual request is withdrawn at
once (each stranding withdraws it: the model's inference, Log 19). Return is answered NotDetoured and WorkingUnusable where
its conditions fail. -/
def Obligations.CircuitRequestsAreTaken : Prop :=
  ∀ (s : State) (c : Instr) (p : List Byte) (code : Byte) (r : Request) (id : Nat), s.takesCommands →
    requestParams code p = some id →
    let refused (status : Status) : Prop := exec c s = .next (owe ⟨status, [], false⟩ s)
    let taken (t : State) : Prop := exec c s = .next (owe ⟨.done, [], false⟩ t)
    (c = .circuitRequestPin p ∧ code = 0x01 ∧ r = .pin ∨ c = .circuitRequestForced p ∧ code = 0x02 ∧ r = .forced ∨
      c = .circuitRequestManual p ∧ code = 0x03 ∧ r = .manual ∨ c = .circuitRequestClear p ∧ code = 0x05 ∧ r = .none →
      (findCircuit s id = none → refused .unknownId) ∧
      (∀ k, findCircuit s id = some k → k.role ≠ .head → refused .notHead) ∧
      (∀ k, findCircuit s id = some k → k.role = .head → k.cls = .none → r = .forced ∨ r = .manual → refused .notRestorable) ∧
      (∀ k, findCircuit s id = some k → k.role = .head → r = .pin ∨ r = .none ∨ k.cls ≠ .none → ∃ t, taken t ∧ Quiet s t) ∧
      (∀ k, s.work = [] → s.queue = [] → s.circuits = [k] → k.id = id → k.role = .head → k.bundle = 0 →
        k.state = .working → cutStands s k = false → degradeStands s k = false →
        (r = .pin ∨ r = .none → taken (s.setCircuits [{ k with request := r }])) ∧
        (∀ reason, k.cls ≠ .none → circuitFault s k = some reason →
          let stranded := { k with
            count := 0, excluded := [], claimTimeout := none, waitToRestore := none, detour := none }
          (r = .forced → taken (post (.circuitState id .stranded .working reason)
            (s.setCircuits [{ stranded with request := .forced, state := .stranded, reason := reason }]))) ∧
          (r = .manual → k.parked = none → taken (post (.circuitState id .working .stranded .none)
            (post (.manualWithdrawn id) (post (.circuitState id .stranded .working reason)
              (s.setCircuits [{ stranded with request := .none, reason := .none }]))))))))
    ∧ (c = .circuitRequestReturn p ∧ code = 0x04 →
      (findCircuit s id = none → refused .unknownId) ∧
      ∀ k, findCircuit s id = some k →
        (k.role ≠ .head → refused .notHead) ∧
        (k.role = .head → k.state ≠ .detoured → k.state ≠ .waitRestore → refused .notDetoured) ∧
        (k.role = .head → k.state = .detoured ∨ k.state = .waitRestore →
          (∃ i ∈ workArc s k, statusOf s i ≠ .usable ∨ degradedOf s i = true) → refused .workingUnusable))

/-- Demote is judged in the manual's order: an id without a record, a record that is no head, a class not below the current
one. When it passes, the list records it: in place of the id's entry, as the newest, or, in a full list, after the oldest
entry without a record is dropped; the class is lowered, and at None a stored Forced or Manual request goes and a head away
from WORKING is brought back: from its detour it reverts, a claim is withdrawn, a queue entry or a stranding ends, and one that
is in WORKING again with a Cut standing strands with NoRestoration. Restore Plan empties the list and gives every record its plan class. (That a queued circuit alone is evaluated is the model's inference,
Log 32.) -/
def Obligations.ClassesAreLoweredAndRestored : Prop :=
  (∀ (s : State) (p : List Byte) (id : Nat) (cls : Machine.Class), s.takesCommands → s.pld.frozen = false →
    demoteParams p = some (id, cls) →
    let refused (status : Status) : Prop := exec (.demote p) s = .next (owe ⟨status, [], false⟩ s)
    let taken (t : State) : Prop := exec (.demote p) s = .next (owe ⟨.done, [], false⟩ t)
    let recorded := s.setPld { s.pld with demotions := recordDemotion s.circuits ⟨id, cls⟩ s.pld.demotions }
    (findCircuit s id = none → refused .unknownId) ∧
    ∀ k, findCircuit s id = some k →
      (k.role ≠ .head → refused .notHead) ∧
      (k.role = .head → k.cls.rank ≤ cls.rank → refused .badParameter) ∧
      (k.role = .head → cls.rank < k.cls.rank → (∃ t, taken t ∧ Quiet recorded t) ∧
        (s.work = [] → s.queue = [] → cls = .opportunistic → k.state ≠ .queued →
          taken (recorded.setCircuits (s.circuits.map fun old => if old.id = id then { k with cls := cls } else old))) ∧
        (s.work = [] → s.queue = [] → s.circuits = [k] → cls = .none → k.bundle = 0 → k.state = .working →
          cutStands s k = false → degradeStands s k = false →
          taken (recorded.setCircuits [{ k with
            cls := .none, request := if k.request = .forced ∨ k.request = .manual then .none else k.request }])) ∧
        (s.work = [] → s.circuits = [k] → cls = .none → k.bundle = 0 →
          let lowered := { k with
            cls := .none, request := if k.request = .forced ∨ k.request = .manual then .none else k.request }
          let home := { lowered with
            state := .working, reason := .none, detour := none, claimTimeout := none, waitToRestore := none }
          let unrestorable := { home with state := .stranded, reason := .noRestoration, count := 0, excluded := [] }
          let cut := k.request ≠ .pin ∧ cutStands s k = true
          let calm := k.request = .pin ∨ cutStands s k = false ∧ degradeStands s k = false
          (∀ lane, s.queue = [] → k.state = .retuning ∨ k.state = .detoured ∨ k.state = .waitRestore →
            k.detour = some lane → mayStepAtOnce s k.portNo k.lane →
            ∃ t, taken t ∧ Reverts lowered lane recorded t) ∧
          (k.parked = none → k.state = .stranded ∧ s.queue = [] ∨ k.state = .queued ∧ s.queue.map (·.lead) = [id] →
            (calm → taken (post (.circuitState id .working k.state .none)
              ((recorded.setQueue []).setCircuits [home]))) ∧
            (cut → taken (post (.circuitState id .stranded .working .noRestoration)
              (post (.circuitState id .working k.state .none) ((recorded.setQueue []).setCircuits [unrestorable]))))) ∧
          (∀ lane, k.parked = none → s.queue = [] → k.state = .claiming → k.detour = some lane →
            ∃ t, taken t ∧ Withdrawn k lane recorded t ∧ t.queue = [] ∧
              (calm → t.circuits = [{ home with attempt := .open }] ∧
                t.mgp.events = joinEvents s.clock (.circuitState id .working .claiming .none) s.mgp.events) ∧
              (cut → t.circuits = [{ unrestorable with attempt := .open }] ∧
                t.mgp.events = joinEvents s.clock (.circuitState id .stranded .working .noRestoration)
                  (joinEvents s.clock (.circuitState id .working .claiming .none) s.mgp.events)))))) ∧
  (∀ (s : State), s.takesCommands → s.pld.frozen = false →
    let restored := (s.setPld { s.pld with demotions := [] }).setCircuits
      (s.circuits.map fun c => { c with cls := c.planClass })
    (∃ t, exec (.restorePlan []) s = .next (owe ⟨.done, [], false⟩ t) ∧ Quiet restored t) ∧
    (Settled s → (∀ c ∈ s.circuits, c.planClass.rank ≤ c.cls.rank) →
      exec (.restorePlan []) s = .next (owe ⟨.done, [], false⟩ restored)) ∧
    (∀ k, s.work = [] → s.queue = [] → s.circuits = [k] → k.state = .working → wanted s (groupOf s k) = none →
      exec (.restorePlan []) s = .next (owe ⟨.done, [], false⟩ restored))) ∧
  (∀ (circuits : List Circuit) (d : Demotion) (list : List Demotion),
    (d.id ∈ list.map (·.id) → recordDemotion circuits d list = list.map fun e => if e.id = d.id then d else e) ∧
    (d.id ∉ list.map (·.id) → list.length < 192 → recordDemotion circuits d list = list ++ [d]) ∧
    (∀ older e newer, d.id ∉ list.map (·.id) → list.length = 192 → list = older ++ e :: newer →
      (∀ x ∈ older, ∃ c ∈ circuits, c.id = x.id) → (∀ c ∈ circuits, c.id ≠ e.id) →
      recordDemotion circuits d list = older ++ newer ++ [d]))

/-- A command frame is judged in order: Busy while a response is owed (no response at 255 Busy ones), then BadFrame and
InvalidCommand, NotReady in START but for Status Query, BadParameter; each with no effect but the response. Warm Reset is
answered Done; a sent response leaves the list, and after Warm Reset's the command reset is due. (The model's choice: the mark
that the sent response sets, from which the command reset is due, Log 7; and BadParameter for a row whose selecting bytes are
another row's, Log 21.) -/
def Obligations.CommandFramesAreJudgedInOrder : Prop :=
  (∀ (s : State) (c : Instr), s.rstnLow = false → isCommandFrame c = true →
    let answered (status : Status) : Prop := exec c s = .next (owe ⟨status, [], false⟩ s)
    let busy := (s.mgp.owed.filter fun r => r.status = .busy).length
    (s.mgp.owed ≠ [] → busy < 255 → answered .busy) ∧
    (s.mgp.owed ≠ [] → 255 ≤ busy → exec c s = .next s) ∧
    (s.mgp.owed = [] → s.mgp.resetDue = false →
      (c = .badFrame .abandoned ∨ c = .badFrame .badCheck → answered .badFrame) ∧
      (c = .badFrame .unknownCode → answered .invalidCommand) ∧
      (s.pld.mode = .start → answeredInStart c = false → answered .notReady) ∧
      (s.pld.mode ≠ .start ∨ answeredInStart c = true → paramsBad c = true → answered .badParameter))) ∧
  (∀ s : State, s.takesCommands → exec (.warmReset []) s = .next (owe ⟨.done, [], true⟩ s)) ∧
  (∀ (s : State) (r : Response) (rest : List Response), s.rstnLow = false → s.mgp.owed = r :: rest →
    exec .responseSendComplete s =
      .next (s.setMgp { s.mgp with owed := rest, resetDue := s.mgp.resetDue || r.warmReset }))

/-- R193, R194: Fetch Events removes up to 8 of the oldest entries and answers them, oldest first, none from an empty queue;
after the marker is removed the queue takes events again. ATTN is asserted while the queue holds an entry: by any post, and
by the end of the load; a fetch of the last entry negates it, and so does any reset (one that a low RSTN deferred is taken at
its release, Log 6). -/
def Obligations.EventsAreFetchedOldestFirst : Prop :=
  (∀ s : State, s.takesCommands →
    let t := owe ⟨.done, byte (min 8 s.mgp.events.length) :: (s.mgp.events.take 8).flatMap eventBytes, false⟩
      (s.setMgp { s.mgp with events := s.mgp.events.drop 8 })
    exec (.fetchEvents []) s = .next t ∧ (t.attn = true ↔ 8 < s.mgp.events.length)) ∧
  (∀ (now : Nat) (events : List Event), EventsLawful now events → (∃ e ∈ events.take 8, e.isMarker = true) →
    ∀ (later : Nat) (body : EventBody), joinEvents later body (events.drop 8) = [⟨later, body⟩]) ∧
  (∀ s : State, s.attn = true ↔ s.mgp.events ≠ []) ∧
  (∀ (s : State) (body : EventBody), (post body s).attn = true) ∧
  (∀ s t : State, ((s.rstnLow = false ∨ s.powerOnDue = true) ∧ exec .powerOnReset s = .next t) ∨
      exec .pinReset s = .next t ∨
      (s.rstnLow = false ∧ s.mgp.resetDue = true ∧ exec .commandReset s = .next t) →
    t.attn = false ∧ t.mgp.events = [] ∧ t.mgp.owed = []) ∧
  (∀ (c : Instr) (s t : State), exec c s = .next t → s.pld.mode = .start → t.pld.mode ≠ .start → t.attn = true) ∧
  (∀ (now : Nat) (body : EventBody) (events : List Event), EventsLawful now events →
    ((∀ e ∈ events, e.isMarker = false) → events.length < 63 → joinEvents now body events = events ++ [⟨now, body⟩]) ∧
    ((∀ e ∈ events, e.isMarker = false) → events.length = 63 →
      joinEvents now body events = events ++ [⟨now, .overflow 1⟩]) ∧
    (∀ older stamp lost, events = older ++ [⟨stamp, .overflow lost⟩] →
      joinEvents now body events = older ++ [⟨stamp, .overflow (min (lost + 1) 65535)⟩]))
end

