-- ==== Sys2Proof/Laws/State.lean ====
section
/-! SUPPORT. One lemma for each field after each update of the state, so that no proof unfolds a record update. -/

namespace Sys2Proof.Machine

@[simp] theorem Both.get_set_same {α : Type} (b : Both α) (side : Side) (v : α) : (b.set side v).get side = v := by
  cases side <;> rfl

@[simp] theorem Both.get_set_other {α : Type} (b : Both α) (side : Side) (v : α) :
    (b.set side v).get side.other = b.get side.other := by
  cases side <;> rfl

theorem Both.get_set {α : Type} (b : Both α) (side x : Side) (v : α) :
    (b.set side v).get x = if x = side then v else b.get x := by
  cases side <;> cases x <;> rfl

@[simp] theorem Both.set_get {α : Type} (b : Both α) (side : Side) : b.set side (b.get side) = b := by
  cases side <;> rfl

@[simp] theorem Both.set_set {α : Type} (b : Both α) (side : Side) (v w : α) : (b.set side v).set side w = b.set side w := by
  cases side <;> rfl

namespace State

@[simp] theorem setPld_pending (p : Pld) (s : State) : (s.setPld p).pending = s.pending := rfl
@[simp] theorem setPld_rstnLow (p : Pld) (s : State) : (s.setPld p).rstnLow = s.rstnLow := rfl
@[simp] theorem setPld_powerOnDue (p : Pld) (s : State) : (s.setPld p).powerOnDue = s.powerOnDue := rfl
@[simp] theorem setPld_clock (p : Pld) (s : State) : (s.setPld p).clock = s.clock := rfl
@[simp] theorem setPld_pld (p : Pld) (s : State) : (s.setPld p).pld = p := rfl
@[simp] theorem setPld_mon (p : Pld) (s : State) : (s.setPld p).mon = s.mon := rfl
@[simp] theorem setPld_link (p : Pld) (s : State) : (s.setPld p).link = s.link := rfl
@[simp] theorem setPld_nrv (p : Pld) (s : State) : (s.setPld p).nrv = s.nrv := rfl
@[simp] theorem setPld_toCcl (p : Pld) (s : State) : (s.setPld p).toCcl = s.toCcl := rfl
@[simp] theorem setPld_toDce (p : Pld) (s : State) : (s.setPld p).toDce = s.toDce := rfl
@[simp] theorem setPld_circuits (p : Pld) (s : State) : (s.setPld p).circuits = s.circuits := rfl
@[simp] theorem setPld_queue (p : Pld) (s : State) : (s.setPld p).queue = s.queue := rfl
@[simp] theorem setPld_lanes (p : Pld) (s : State) : (s.setPld p).lanes = s.lanes := rfl
@[simp] theorem setPld_lsd (p : Pld) (s : State) : (s.setPld p).lsd = s.lsd := rfl
@[simp] theorem setPld_tpc (p : Pld) (s : State) : (s.setPld p).tpc = s.tpc := rfl
@[simp] theorem setPld_mgp (p : Pld) (s : State) : (s.setPld p).mgp = s.mgp := rfl
@[simp] theorem setPld_work (p : Pld) (s : State) : (s.setPld p).work = s.work := rfl

@[simp] theorem setNrv_pending (n : Nrv) (s : State) : (s.setNrv n).pending = s.pending := rfl
@[simp] theorem setNrv_rstnLow (n : Nrv) (s : State) : (s.setNrv n).rstnLow = s.rstnLow := rfl
@[simp] theorem setNrv_powerOnDue (n : Nrv) (s : State) : (s.setNrv n).powerOnDue = s.powerOnDue := rfl
@[simp] theorem setNrv_clock (n : Nrv) (s : State) : (s.setNrv n).clock = s.clock := rfl
@[simp] theorem setNrv_pld (n : Nrv) (s : State) : (s.setNrv n).pld = s.pld := rfl
@[simp] theorem setNrv_mon (n : Nrv) (s : State) : (s.setNrv n).mon = s.mon := rfl
@[simp] theorem setNrv_link (n : Nrv) (s : State) : (s.setNrv n).link = s.link := rfl
@[simp] theorem setNrv_nrv (n : Nrv) (s : State) : (s.setNrv n).nrv = n := rfl
@[simp] theorem setNrv_toCcl (n : Nrv) (s : State) : (s.setNrv n).toCcl = s.toCcl := rfl
@[simp] theorem setNrv_toDce (n : Nrv) (s : State) : (s.setNrv n).toDce = s.toDce := rfl
@[simp] theorem setNrv_circuits (n : Nrv) (s : State) : (s.setNrv n).circuits = s.circuits := rfl
@[simp] theorem setNrv_queue (n : Nrv) (s : State) : (s.setNrv n).queue = s.queue := rfl
@[simp] theorem setNrv_lanes (n : Nrv) (s : State) : (s.setNrv n).lanes = s.lanes := rfl
@[simp] theorem setNrv_lsd (n : Nrv) (s : State) : (s.setNrv n).lsd = s.lsd := rfl
@[simp] theorem setNrv_tpc (n : Nrv) (s : State) : (s.setNrv n).tpc = s.tpc := rfl
@[simp] theorem setNrv_mgp (n : Nrv) (s : State) : (s.setNrv n).mgp = s.mgp := rfl
@[simp] theorem setNrv_work (n : Nrv) (s : State) : (s.setNrv n).work = s.work := rfl

@[simp] theorem setToCcl_pending (h : List CclHand) (s : State) : (s.setToCcl h).pending = s.pending := rfl
@[simp] theorem setToCcl_rstnLow (h : List CclHand) (s : State) : (s.setToCcl h).rstnLow = s.rstnLow := rfl
@[simp] theorem setToCcl_powerOnDue (h : List CclHand) (s : State) : (s.setToCcl h).powerOnDue = s.powerOnDue := rfl
@[simp] theorem setToCcl_clock (h : List CclHand) (s : State) : (s.setToCcl h).clock = s.clock := rfl
@[simp] theorem setToCcl_pld (h : List CclHand) (s : State) : (s.setToCcl h).pld = s.pld := rfl
@[simp] theorem setToCcl_mon (h : List CclHand) (s : State) : (s.setToCcl h).mon = s.mon := rfl
@[simp] theorem setToCcl_link (h : List CclHand) (s : State) : (s.setToCcl h).link = s.link := rfl
@[simp] theorem setToCcl_nrv (h : List CclHand) (s : State) : (s.setToCcl h).nrv = s.nrv := rfl
@[simp] theorem setToCcl_toCcl (h : List CclHand) (s : State) : (s.setToCcl h).toCcl = h := rfl
@[simp] theorem setToCcl_toDce (h : List CclHand) (s : State) : (s.setToCcl h).toDce = s.toDce := rfl
@[simp] theorem setToCcl_circuits (h : List CclHand) (s : State) : (s.setToCcl h).circuits = s.circuits := rfl
@[simp] theorem setToCcl_queue (h : List CclHand) (s : State) : (s.setToCcl h).queue = s.queue := rfl
@[simp] theorem setToCcl_lanes (h : List CclHand) (s : State) : (s.setToCcl h).lanes = s.lanes := rfl
@[simp] theorem setToCcl_lsd (h : List CclHand) (s : State) : (s.setToCcl h).lsd = s.lsd := rfl
@[simp] theorem setToCcl_tpc (h : List CclHand) (s : State) : (s.setToCcl h).tpc = s.tpc := rfl
@[simp] theorem setToCcl_mgp (h : List CclHand) (s : State) : (s.setToCcl h).mgp = s.mgp := rfl
@[simp] theorem setToCcl_work (h : List CclHand) (s : State) : (s.setToCcl h).work = s.work := rfl

@[simp] theorem setToDce_pending (h : List DceHand) (s : State) : (s.setToDce h).pending = s.pending := rfl
@[simp] theorem setToDce_rstnLow (h : List DceHand) (s : State) : (s.setToDce h).rstnLow = s.rstnLow := rfl
@[simp] theorem setToDce_powerOnDue (h : List DceHand) (s : State) : (s.setToDce h).powerOnDue = s.powerOnDue := rfl
@[simp] theorem setToDce_clock (h : List DceHand) (s : State) : (s.setToDce h).clock = s.clock := rfl
@[simp] theorem setToDce_pld (h : List DceHand) (s : State) : (s.setToDce h).pld = s.pld := rfl
@[simp] theorem setToDce_mon (h : List DceHand) (s : State) : (s.setToDce h).mon = s.mon := rfl
@[simp] theorem setToDce_link (h : List DceHand) (s : State) : (s.setToDce h).link = s.link := rfl
@[simp] theorem setToDce_nrv (h : List DceHand) (s : State) : (s.setToDce h).nrv = s.nrv := rfl
@[simp] theorem setToDce_toCcl (h : List DceHand) (s : State) : (s.setToDce h).toCcl = s.toCcl := rfl
@[simp] theorem setToDce_toDce (h : List DceHand) (s : State) : (s.setToDce h).toDce = h := rfl
@[simp] theorem setToDce_circuits (h : List DceHand) (s : State) : (s.setToDce h).circuits = s.circuits := rfl
@[simp] theorem setToDce_queue (h : List DceHand) (s : State) : (s.setToDce h).queue = s.queue := rfl
@[simp] theorem setToDce_lanes (h : List DceHand) (s : State) : (s.setToDce h).lanes = s.lanes := rfl
@[simp] theorem setToDce_lsd (h : List DceHand) (s : State) : (s.setToDce h).lsd = s.lsd := rfl
@[simp] theorem setToDce_tpc (h : List DceHand) (s : State) : (s.setToDce h).tpc = s.tpc := rfl
@[simp] theorem setToDce_mgp (h : List DceHand) (s : State) : (s.setToDce h).mgp = s.mgp := rfl
@[simp] theorem setToDce_work (h : List DceHand) (s : State) : (s.setToDce h).work = s.work := rfl

@[simp] theorem setCircuits_pending (cs : List Circuit) (s : State) : (s.setCircuits cs).pending = s.pending := rfl
@[simp] theorem setCircuits_rstnLow (cs : List Circuit) (s : State) : (s.setCircuits cs).rstnLow = s.rstnLow := rfl
@[simp] theorem setCircuits_powerOnDue (cs : List Circuit) (s : State) : (s.setCircuits cs).powerOnDue = s.powerOnDue := rfl
@[simp] theorem setCircuits_clock (cs : List Circuit) (s : State) : (s.setCircuits cs).clock = s.clock := rfl
@[simp] theorem setCircuits_pld (cs : List Circuit) (s : State) : (s.setCircuits cs).pld = s.pld := rfl
@[simp] theorem setCircuits_mon (cs : List Circuit) (s : State) : (s.setCircuits cs).mon = s.mon := rfl
@[simp] theorem setCircuits_link (cs : List Circuit) (s : State) : (s.setCircuits cs).link = s.link := rfl
@[simp] theorem setCircuits_nrv (cs : List Circuit) (s : State) : (s.setCircuits cs).nrv = s.nrv := rfl
@[simp] theorem setCircuits_toCcl (cs : List Circuit) (s : State) : (s.setCircuits cs).toCcl = s.toCcl := rfl
@[simp] theorem setCircuits_toDce (cs : List Circuit) (s : State) : (s.setCircuits cs).toDce = s.toDce := rfl
@[simp] theorem setCircuits_circuits (cs : List Circuit) (s : State) : (s.setCircuits cs).circuits = cs := rfl
@[simp] theorem setCircuits_queue (cs : List Circuit) (s : State) : (s.setCircuits cs).queue = s.queue := rfl
@[simp] theorem setCircuits_lanes (cs : List Circuit) (s : State) : (s.setCircuits cs).lanes = s.lanes := rfl
@[simp] theorem setCircuits_lsd (cs : List Circuit) (s : State) : (s.setCircuits cs).lsd = s.lsd := rfl
@[simp] theorem setCircuits_tpc (cs : List Circuit) (s : State) : (s.setCircuits cs).tpc = s.tpc := rfl
@[simp] theorem setCircuits_mgp (cs : List Circuit) (s : State) : (s.setCircuits cs).mgp = s.mgp := rfl
@[simp] theorem setCircuits_work (cs : List Circuit) (s : State) : (s.setCircuits cs).work = s.work := rfl

@[simp] theorem setQueue_pending (q : List QueueEntry) (s : State) : (s.setQueue q).pending = s.pending := rfl
@[simp] theorem setQueue_rstnLow (q : List QueueEntry) (s : State) : (s.setQueue q).rstnLow = s.rstnLow := rfl
@[simp] theorem setQueue_powerOnDue (q : List QueueEntry) (s : State) : (s.setQueue q).powerOnDue = s.powerOnDue := rfl
@[simp] theorem setQueue_clock (q : List QueueEntry) (s : State) : (s.setQueue q).clock = s.clock := rfl
@[simp] theorem setQueue_pld (q : List QueueEntry) (s : State) : (s.setQueue q).pld = s.pld := rfl
@[simp] theorem setQueue_mon (q : List QueueEntry) (s : State) : (s.setQueue q).mon = s.mon := rfl
@[simp] theorem setQueue_link (q : List QueueEntry) (s : State) : (s.setQueue q).link = s.link := rfl
@[simp] theorem setQueue_nrv (q : List QueueEntry) (s : State) : (s.setQueue q).nrv = s.nrv := rfl
@[simp] theorem setQueue_toCcl (q : List QueueEntry) (s : State) : (s.setQueue q).toCcl = s.toCcl := rfl
@[simp] theorem setQueue_toDce (q : List QueueEntry) (s : State) : (s.setQueue q).toDce = s.toDce := rfl
@[simp] theorem setQueue_circuits (q : List QueueEntry) (s : State) : (s.setQueue q).circuits = s.circuits := rfl
@[simp] theorem setQueue_queue (q : List QueueEntry) (s : State) : (s.setQueue q).queue = q := rfl
@[simp] theorem setQueue_lanes (q : List QueueEntry) (s : State) : (s.setQueue q).lanes = s.lanes := rfl
@[simp] theorem setQueue_lsd (q : List QueueEntry) (s : State) : (s.setQueue q).lsd = s.lsd := rfl
@[simp] theorem setQueue_tpc (q : List QueueEntry) (s : State) : (s.setQueue q).tpc = s.tpc := rfl
@[simp] theorem setQueue_mgp (q : List QueueEntry) (s : State) : (s.setQueue q).mgp = s.mgp := rfl
@[simp] theorem setQueue_work (q : List QueueEntry) (s : State) : (s.setQueue q).work = s.work := rfl

@[simp] theorem setLsd_pending (l : Lsd) (s : State) : (s.setLsd l).pending = s.pending := rfl
@[simp] theorem setLsd_rstnLow (l : Lsd) (s : State) : (s.setLsd l).rstnLow = s.rstnLow := rfl
@[simp] theorem setLsd_powerOnDue (l : Lsd) (s : State) : (s.setLsd l).powerOnDue = s.powerOnDue := rfl
@[simp] theorem setLsd_clock (l : Lsd) (s : State) : (s.setLsd l).clock = s.clock := rfl
@[simp] theorem setLsd_pld (l : Lsd) (s : State) : (s.setLsd l).pld = s.pld := rfl
@[simp] theorem setLsd_mon (l : Lsd) (s : State) : (s.setLsd l).mon = s.mon := rfl
@[simp] theorem setLsd_link (l : Lsd) (s : State) : (s.setLsd l).link = s.link := rfl
@[simp] theorem setLsd_nrv (l : Lsd) (s : State) : (s.setLsd l).nrv = s.nrv := rfl
@[simp] theorem setLsd_toCcl (l : Lsd) (s : State) : (s.setLsd l).toCcl = s.toCcl := rfl
@[simp] theorem setLsd_toDce (l : Lsd) (s : State) : (s.setLsd l).toDce = s.toDce := rfl
@[simp] theorem setLsd_circuits (l : Lsd) (s : State) : (s.setLsd l).circuits = s.circuits := rfl
@[simp] theorem setLsd_queue (l : Lsd) (s : State) : (s.setLsd l).queue = s.queue := rfl
@[simp] theorem setLsd_lanes (l : Lsd) (s : State) : (s.setLsd l).lanes = s.lanes := rfl
@[simp] theorem setLsd_lsd (l : Lsd) (s : State) : (s.setLsd l).lsd = l := rfl
@[simp] theorem setLsd_tpc (l : Lsd) (s : State) : (s.setLsd l).tpc = s.tpc := rfl
@[simp] theorem setLsd_mgp (l : Lsd) (s : State) : (s.setLsd l).mgp = s.mgp := rfl
@[simp] theorem setLsd_work (l : Lsd) (s : State) : (s.setLsd l).work = s.work := rfl

@[simp] theorem setTpc_pending (t : Tpc) (s : State) : (s.setTpc t).pending = s.pending := rfl
@[simp] theorem setTpc_rstnLow (t : Tpc) (s : State) : (s.setTpc t).rstnLow = s.rstnLow := rfl
@[simp] theorem setTpc_powerOnDue (t : Tpc) (s : State) : (s.setTpc t).powerOnDue = s.powerOnDue := rfl
@[simp] theorem setTpc_clock (t : Tpc) (s : State) : (s.setTpc t).clock = s.clock := rfl
@[simp] theorem setTpc_pld (t : Tpc) (s : State) : (s.setTpc t).pld = s.pld := rfl
@[simp] theorem setTpc_mon (t : Tpc) (s : State) : (s.setTpc t).mon = s.mon := rfl
@[simp] theorem setTpc_link (t : Tpc) (s : State) : (s.setTpc t).link = s.link := rfl
@[simp] theorem setTpc_nrv (t : Tpc) (s : State) : (s.setTpc t).nrv = s.nrv := rfl
@[simp] theorem setTpc_toCcl (t : Tpc) (s : State) : (s.setTpc t).toCcl = s.toCcl := rfl
@[simp] theorem setTpc_toDce (t : Tpc) (s : State) : (s.setTpc t).toDce = s.toDce := rfl
@[simp] theorem setTpc_circuits (t : Tpc) (s : State) : (s.setTpc t).circuits = s.circuits := rfl
@[simp] theorem setTpc_queue (t : Tpc) (s : State) : (s.setTpc t).queue = s.queue := rfl
@[simp] theorem setTpc_lanes (t : Tpc) (s : State) : (s.setTpc t).lanes = s.lanes := rfl
@[simp] theorem setTpc_lsd (t : Tpc) (s : State) : (s.setTpc t).lsd = s.lsd := rfl
@[simp] theorem setTpc_tpc (t : Tpc) (s : State) : (s.setTpc t).tpc = t := rfl
@[simp] theorem setTpc_mgp (t : Tpc) (s : State) : (s.setTpc t).mgp = s.mgp := rfl
@[simp] theorem setTpc_work (t : Tpc) (s : State) : (s.setTpc t).work = s.work := rfl

@[simp] theorem setMgp_pending (m : Mgp) (s : State) : (s.setMgp m).pending = s.pending := rfl
@[simp] theorem setMgp_rstnLow (m : Mgp) (s : State) : (s.setMgp m).rstnLow = s.rstnLow := rfl
@[simp] theorem setMgp_powerOnDue (m : Mgp) (s : State) : (s.setMgp m).powerOnDue = s.powerOnDue := rfl
@[simp] theorem setMgp_clock (m : Mgp) (s : State) : (s.setMgp m).clock = s.clock := rfl
@[simp] theorem setMgp_pld (m : Mgp) (s : State) : (s.setMgp m).pld = s.pld := rfl
@[simp] theorem setMgp_mon (m : Mgp) (s : State) : (s.setMgp m).mon = s.mon := rfl
@[simp] theorem setMgp_link (m : Mgp) (s : State) : (s.setMgp m).link = s.link := rfl
@[simp] theorem setMgp_nrv (m : Mgp) (s : State) : (s.setMgp m).nrv = s.nrv := rfl
@[simp] theorem setMgp_toCcl (m : Mgp) (s : State) : (s.setMgp m).toCcl = s.toCcl := rfl
@[simp] theorem setMgp_toDce (m : Mgp) (s : State) : (s.setMgp m).toDce = s.toDce := rfl
@[simp] theorem setMgp_circuits (m : Mgp) (s : State) : (s.setMgp m).circuits = s.circuits := rfl
@[simp] theorem setMgp_queue (m : Mgp) (s : State) : (s.setMgp m).queue = s.queue := rfl
@[simp] theorem setMgp_lanes (m : Mgp) (s : State) : (s.setMgp m).lanes = s.lanes := rfl
@[simp] theorem setMgp_lsd (m : Mgp) (s : State) : (s.setMgp m).lsd = s.lsd := rfl
@[simp] theorem setMgp_tpc (m : Mgp) (s : State) : (s.setMgp m).tpc = s.tpc := rfl
@[simp] theorem setMgp_mgp (m : Mgp) (s : State) : (s.setMgp m).mgp = m := rfl
@[simp] theorem setMgp_work (m : Mgp) (s : State) : (s.setMgp m).work = s.work := rfl

@[simp] theorem setWork_pending (w : List Work) (s : State) : (s.setWork w).pending = s.pending := rfl
@[simp] theorem setWork_rstnLow (w : List Work) (s : State) : (s.setWork w).rstnLow = s.rstnLow := rfl
@[simp] theorem setWork_powerOnDue (w : List Work) (s : State) : (s.setWork w).powerOnDue = s.powerOnDue := rfl
@[simp] theorem setWork_clock (w : List Work) (s : State) : (s.setWork w).clock = s.clock := rfl
@[simp] theorem setWork_pld (w : List Work) (s : State) : (s.setWork w).pld = s.pld := rfl
@[simp] theorem setWork_mon (w : List Work) (s : State) : (s.setWork w).mon = s.mon := rfl
@[simp] theorem setWork_link (w : List Work) (s : State) : (s.setWork w).link = s.link := rfl
@[simp] theorem setWork_nrv (w : List Work) (s : State) : (s.setWork w).nrv = s.nrv := rfl
@[simp] theorem setWork_toCcl (w : List Work) (s : State) : (s.setWork w).toCcl = s.toCcl := rfl
@[simp] theorem setWork_toDce (w : List Work) (s : State) : (s.setWork w).toDce = s.toDce := rfl
@[simp] theorem setWork_circuits (w : List Work) (s : State) : (s.setWork w).circuits = s.circuits := rfl
@[simp] theorem setWork_queue (w : List Work) (s : State) : (s.setWork w).queue = s.queue := rfl
@[simp] theorem setWork_lanes (w : List Work) (s : State) : (s.setWork w).lanes = s.lanes := rfl
@[simp] theorem setWork_lsd (w : List Work) (s : State) : (s.setWork w).lsd = s.lsd := rfl
@[simp] theorem setWork_tpc (w : List Work) (s : State) : (s.setWork w).tpc = s.tpc := rfl
@[simp] theorem setWork_mgp (w : List Work) (s : State) : (s.setWork w).mgp = s.mgp := rfl
@[simp] theorem setWork_work (w : List Work) (s : State) : (s.setWork w).work = w := rfl

@[simp] theorem setMon_pending (side : Side) (m : Monitor) (s : State) : (s.setMon side m).pending = s.pending := rfl
@[simp] theorem setMon_rstnLow (side : Side) (m : Monitor) (s : State) : (s.setMon side m).rstnLow = s.rstnLow := rfl
@[simp] theorem setMon_powerOnDue (side : Side) (m : Monitor) (s : State) : (s.setMon side m).powerOnDue = s.powerOnDue := rfl
@[simp] theorem setMon_clock (side : Side) (m : Monitor) (s : State) : (s.setMon side m).clock = s.clock := rfl
@[simp] theorem setMon_pld (side : Side) (m : Monitor) (s : State) : (s.setMon side m).pld = s.pld := rfl
@[simp] theorem setMon_mon (side : Side) (m : Monitor) (s : State) : (s.setMon side m).mon = s.mon.set side m := rfl
@[simp] theorem setMon_link (side : Side) (m : Monitor) (s : State) : (s.setMon side m).link = s.link := rfl
@[simp] theorem setMon_nrv (side : Side) (m : Monitor) (s : State) : (s.setMon side m).nrv = s.nrv := rfl
@[simp] theorem setMon_toCcl (side : Side) (m : Monitor) (s : State) : (s.setMon side m).toCcl = s.toCcl := rfl
@[simp] theorem setMon_toDce (side : Side) (m : Monitor) (s : State) : (s.setMon side m).toDce = s.toDce := rfl
@[simp] theorem setMon_circuits (side : Side) (m : Monitor) (s : State) : (s.setMon side m).circuits = s.circuits := rfl
@[simp] theorem setMon_queue (side : Side) (m : Monitor) (s : State) : (s.setMon side m).queue = s.queue := rfl
@[simp] theorem setMon_lanes (side : Side) (m : Monitor) (s : State) : (s.setMon side m).lanes = s.lanes := rfl
@[simp] theorem setMon_lsd (side : Side) (m : Monitor) (s : State) : (s.setMon side m).lsd = s.lsd := rfl
@[simp] theorem setMon_tpc (side : Side) (m : Monitor) (s : State) : (s.setMon side m).tpc = s.tpc := rfl
@[simp] theorem setMon_mgp (side : Side) (m : Monitor) (s : State) : (s.setMon side m).mgp = s.mgp := rfl
@[simp] theorem setMon_work (side : Side) (m : Monitor) (s : State) : (s.setMon side m).work = s.work := rfl

@[simp] theorem setLink_pending (side : Side) (l : Link) (s : State) : (s.setLink side l).pending = s.pending := rfl
@[simp] theorem setLink_rstnLow (side : Side) (l : Link) (s : State) : (s.setLink side l).rstnLow = s.rstnLow := rfl
@[simp] theorem setLink_powerOnDue (side : Side) (l : Link) (s : State) : (s.setLink side l).powerOnDue = s.powerOnDue := rfl
@[simp] theorem setLink_clock (side : Side) (l : Link) (s : State) : (s.setLink side l).clock = s.clock := rfl
@[simp] theorem setLink_pld (side : Side) (l : Link) (s : State) : (s.setLink side l).pld = s.pld := rfl
@[simp] theorem setLink_mon (side : Side) (l : Link) (s : State) : (s.setLink side l).mon = s.mon := rfl
@[simp] theorem setLink_link (side : Side) (l : Link) (s : State) : (s.setLink side l).link = s.link.set side l := rfl
@[simp] theorem setLink_nrv (side : Side) (l : Link) (s : State) : (s.setLink side l).nrv = s.nrv := rfl
@[simp] theorem setLink_toCcl (side : Side) (l : Link) (s : State) : (s.setLink side l).toCcl = s.toCcl := rfl
@[simp] theorem setLink_toDce (side : Side) (l : Link) (s : State) : (s.setLink side l).toDce = s.toDce := rfl
@[simp] theorem setLink_circuits (side : Side) (l : Link) (s : State) : (s.setLink side l).circuits = s.circuits := rfl
@[simp] theorem setLink_queue (side : Side) (l : Link) (s : State) : (s.setLink side l).queue = s.queue := rfl
@[simp] theorem setLink_lanes (side : Side) (l : Link) (s : State) : (s.setLink side l).lanes = s.lanes := rfl
@[simp] theorem setLink_lsd (side : Side) (l : Link) (s : State) : (s.setLink side l).lsd = s.lsd := rfl
@[simp] theorem setLink_tpc (side : Side) (l : Link) (s : State) : (s.setLink side l).tpc = s.tpc := rfl
@[simp] theorem setLink_mgp (side : Side) (l : Link) (s : State) : (s.setLink side l).mgp = s.mgp := rfl
@[simp] theorem setLink_work (side : Side) (l : Link) (s : State) : (s.setLink side l).work = s.work := rfl

@[simp] theorem setLanes_pending (side : Side) (m : List LaneEntry) (s : State) : (s.setLanes side m).pending = s.pending := rfl
@[simp] theorem setLanes_rstnLow (side : Side) (m : List LaneEntry) (s : State) : (s.setLanes side m).rstnLow = s.rstnLow := rfl
@[simp] theorem setLanes_powerOnDue (side : Side) (m : List LaneEntry) (s : State) : (s.setLanes side m).powerOnDue = s.powerOnDue := rfl
@[simp] theorem setLanes_clock (side : Side) (m : List LaneEntry) (s : State) : (s.setLanes side m).clock = s.clock := rfl
@[simp] theorem setLanes_pld (side : Side) (m : List LaneEntry) (s : State) : (s.setLanes side m).pld = s.pld := rfl
@[simp] theorem setLanes_mon (side : Side) (m : List LaneEntry) (s : State) : (s.setLanes side m).mon = s.mon := rfl
@[simp] theorem setLanes_link (side : Side) (m : List LaneEntry) (s : State) : (s.setLanes side m).link = s.link := rfl
@[simp] theorem setLanes_nrv (side : Side) (m : List LaneEntry) (s : State) : (s.setLanes side m).nrv = s.nrv := rfl
@[simp] theorem setLanes_toCcl (side : Side) (m : List LaneEntry) (s : State) : (s.setLanes side m).toCcl = s.toCcl := rfl
@[simp] theorem setLanes_toDce (side : Side) (m : List LaneEntry) (s : State) : (s.setLanes side m).toDce = s.toDce := rfl
@[simp] theorem setLanes_circuits (side : Side) (m : List LaneEntry) (s : State) : (s.setLanes side m).circuits = s.circuits := rfl
@[simp] theorem setLanes_queue (side : Side) (m : List LaneEntry) (s : State) : (s.setLanes side m).queue = s.queue := rfl
@[simp] theorem setLanes_lanes (side : Side) (m : List LaneEntry) (s : State) : (s.setLanes side m).lanes = s.lanes.set side m := rfl
@[simp] theorem setLanes_lsd (side : Side) (m : List LaneEntry) (s : State) : (s.setLanes side m).lsd = s.lsd := rfl
@[simp] theorem setLanes_tpc (side : Side) (m : List LaneEntry) (s : State) : (s.setLanes side m).tpc = s.tpc := rfl
@[simp] theorem setLanes_mgp (side : Side) (m : List LaneEntry) (s : State) : (s.setLanes side m).mgp = s.mgp := rfl
@[simp] theorem setLanes_work (side : Side) (m : List LaneEntry) (s : State) : (s.setLanes side m).work = s.work := rfl

@[simp] theorem setPld_linkAt (p : Pld) (x : Side) (s : State) : (s.setPld p).linkAt x = s.linkAt x := rfl
@[simp] theorem setPld_monAt (p : Pld) (x : Side) (s : State) : (s.setPld p).monAt x = s.monAt x := rfl
@[simp] theorem setNrv_linkAt (n : Nrv) (x : Side) (s : State) : (s.setNrv n).linkAt x = s.linkAt x := rfl
@[simp] theorem setNrv_monAt (n : Nrv) (x : Side) (s : State) : (s.setNrv n).monAt x = s.monAt x := rfl
@[simp] theorem setNrv_running (n : Nrv) (s : State) : (s.setNrv n).running = s.running := rfl
@[simp] theorem setNrv_inRun (n : Nrv) (s : State) : (s.setNrv n).inRun = s.inRun := rfl
@[simp] theorem setToCcl_linkAt (h : List CclHand) (x : Side) (s : State) : (s.setToCcl h).linkAt x = s.linkAt x := rfl
@[simp] theorem setToCcl_monAt (h : List CclHand) (x : Side) (s : State) : (s.setToCcl h).monAt x = s.monAt x := rfl
@[simp] theorem setToCcl_running (h : List CclHand) (s : State) : (s.setToCcl h).running = s.running := rfl
@[simp] theorem setToCcl_inRun (h : List CclHand) (s : State) : (s.setToCcl h).inRun = s.inRun := rfl
@[simp] theorem setToDce_linkAt (h : List DceHand) (x : Side) (s : State) : (s.setToDce h).linkAt x = s.linkAt x := rfl
@[simp] theorem setToDce_monAt (h : List DceHand) (x : Side) (s : State) : (s.setToDce h).monAt x = s.monAt x := rfl
@[simp] theorem setToDce_running (h : List DceHand) (s : State) : (s.setToDce h).running = s.running := rfl
@[simp] theorem setToDce_inRun (h : List DceHand) (s : State) : (s.setToDce h).inRun = s.inRun := rfl
@[simp] theorem setCircuits_linkAt (cs : List Circuit) (x : Side) (s : State) : (s.setCircuits cs).linkAt x = s.linkAt x := rfl
@[simp] theorem setCircuits_monAt (cs : List Circuit) (x : Side) (s : State) : (s.setCircuits cs).monAt x = s.monAt x := rfl
@[simp] theorem setCircuits_running (cs : List Circuit) (s : State) : (s.setCircuits cs).running = s.running := rfl
@[simp] theorem setCircuits_inRun (cs : List Circuit) (s : State) : (s.setCircuits cs).inRun = s.inRun := rfl
@[simp] theorem setQueue_linkAt (q : List QueueEntry) (x : Side) (s : State) : (s.setQueue q).linkAt x = s.linkAt x := rfl
@[simp] theorem setQueue_monAt (q : List QueueEntry) (x : Side) (s : State) : (s.setQueue q).monAt x = s.monAt x := rfl
@[simp] theorem setQueue_running (q : List QueueEntry) (s : State) : (s.setQueue q).running = s.running := rfl
@[simp] theorem setQueue_inRun (q : List QueueEntry) (s : State) : (s.setQueue q).inRun = s.inRun := rfl
@[simp] theorem setLsd_linkAt (l : Lsd) (x : Side) (s : State) : (s.setLsd l).linkAt x = s.linkAt x := rfl
@[simp] theorem setLsd_monAt (l : Lsd) (x : Side) (s : State) : (s.setLsd l).monAt x = s.monAt x := rfl
@[simp] theorem setLsd_running (l : Lsd) (s : State) : (s.setLsd l).running = s.running := rfl
@[simp] theorem setLsd_inRun (l : Lsd) (s : State) : (s.setLsd l).inRun = s.inRun := rfl
@[simp] theorem setTpc_linkAt (t : Tpc) (x : Side) (s : State) : (s.setTpc t).linkAt x = s.linkAt x := rfl
@[simp] theorem setTpc_monAt (t : Tpc) (x : Side) (s : State) : (s.setTpc t).monAt x = s.monAt x := rfl
@[simp] theorem setTpc_running (t : Tpc) (s : State) : (s.setTpc t).running = s.running := rfl
@[simp] theorem setTpc_inRun (t : Tpc) (s : State) : (s.setTpc t).inRun = s.inRun := rfl
@[simp] theorem setMgp_linkAt (m : Mgp) (x : Side) (s : State) : (s.setMgp m).linkAt x = s.linkAt x := rfl
@[simp] theorem setMgp_monAt (m : Mgp) (x : Side) (s : State) : (s.setMgp m).monAt x = s.monAt x := rfl
@[simp] theorem setMgp_running (m : Mgp) (s : State) : (s.setMgp m).running = s.running := rfl
@[simp] theorem setMgp_inRun (m : Mgp) (s : State) : (s.setMgp m).inRun = s.inRun := rfl
@[simp] theorem setWork_linkAt (w : List Work) (x : Side) (s : State) : (s.setWork w).linkAt x = s.linkAt x := rfl
@[simp] theorem setWork_monAt (w : List Work) (x : Side) (s : State) : (s.setWork w).monAt x = s.monAt x := rfl
@[simp] theorem setWork_running (w : List Work) (s : State) : (s.setWork w).running = s.running := rfl
@[simp] theorem setWork_inRun (w : List Work) (s : State) : (s.setWork w).inRun = s.inRun := rfl
@[simp] theorem setMon_linkAt (side : Side) (m : Monitor) (x : Side) (s : State) : (s.setMon side m).linkAt x = s.linkAt x := rfl
@[simp] theorem setMon_running (side : Side) (m : Monitor) (s : State) : (s.setMon side m).running = s.running := rfl
@[simp] theorem setMon_inRun (side : Side) (m : Monitor) (s : State) : (s.setMon side m).inRun = s.inRun := rfl
@[simp] theorem setLink_monAt (side : Side) (l : Link) (x : Side) (s : State) : (s.setLink side l).monAt x = s.monAt x := rfl
@[simp] theorem setLink_running (side : Side) (l : Link) (s : State) : (s.setLink side l).running = s.running := rfl
@[simp] theorem setLink_inRun (side : Side) (l : Link) (s : State) : (s.setLink side l).inRun = s.inRun := rfl
@[simp] theorem setLanes_linkAt (side : Side) (m : List LaneEntry) (x : Side) (s : State) : (s.setLanes side m).linkAt x = s.linkAt x := rfl
@[simp] theorem setLanes_monAt (side : Side) (m : List LaneEntry) (x : Side) (s : State) : (s.setLanes side m).monAt x = s.monAt x := rfl
@[simp] theorem setLanes_running (side : Side) (m : List LaneEntry) (s : State) : (s.setLanes side m).running = s.running := rfl
@[simp] theorem setLanes_inRun (side : Side) (m : List LaneEntry) (s : State) : (s.setLanes side m).inRun = s.inRun := rfl

@[simp] theorem setLink_linkAt_same (side : Side) (l : Link) (s : State) : (s.setLink side l).linkAt side = l := by
  cases side <;> rfl

theorem setLink_linkAt (side x : Side) (l : Link) (s : State) :
    (s.setLink side l).linkAt x = if x = side then l else s.linkAt x := by
  cases side <;> cases x <;> rfl

@[simp] theorem setMon_monAt_same (side : Side) (m : Monitor) (s : State) : (s.setMon side m).monAt side = m := by
  cases side <;> rfl

theorem setMon_monAt (side x : Side) (m : Monitor) (s : State) :
    (s.setMon side m).monAt x = if x = side then m else s.monAt x := by
  cases side <;> cases x <;> rfl

@[simp] theorem setLink_setLink (side : Side) (l k : Link) (s : State) :
    (s.setLink side l).setLink side k = s.setLink side k := by
  cases side <;> rfl

@[simp] theorem setLink_self (side : Side) (s : State) : s.setLink side (s.linkAt side) = s := by
  cases side <;> rfl

@[simp] theorem setMon_self (side : Side) (s : State) : s.setMon side (s.monAt side) = s := by
  cases side <;> rfl

end State

end Sys2Proof.Machine
end

