-- ==== Sys2Proof/Laws/Events.lean ====
section
/-! SUPPORT. Posting events (11 R192): the queue's law is kept, and what a run of posts makes of a queue. -/

namespace Sys2Proof.Machine

theorem PostsFrom.refl (now : Nat) (es : List Event) : PostsFrom now es es := ⟨[], rfl⟩

theorem PostsFrom.one (now : Nat) (body : EventBody) (es : List Event) : PostsFrom now es (joinEvents now body es) :=
  ⟨[body], rfl⟩

theorem PostsFrom.trans {now : Nat} {a b c : List Event} (h : PostsFrom now a b) (k : PostsFrom now b c) :
    PostsFrom now a c := by
  obtain ⟨xs, rfl⟩ := h
  obtain ⟨ys, rfl⟩ := k
  exact ⟨xs ++ ys, by rw [List.foldl_append]⟩

/-- The queue after a post, when something stood in it. -/
theorem joinEvents_snoc (now : Nat) (body : EventBody) (es : List Event) (newest : Event) :
    joinEvents now body (es ++ [newest]) =
      match newest.body.lost with
      | some n => es ++ [⟨newest.stamp, .overflow (countUp 65535 n)⟩]
      | none =>
        if es.length + 1 < Config.eventCapacity - 1 then es ++ [newest] ++ [⟨now, body⟩]
        else es ++ [newest] ++ [⟨now, .overflow 1⟩] := by
  cases lost : newest.body.lost <;> simp [joinEvents, lost]

theorem eventsLawful_nil (now : Nat) : EventsLawful now [] :=
  ⟨by simp, by simp, by simp [Config.eventCapacity], by simp, .nil⟩

/-- A lawful queue stays lawful as the clock goes on. -/
theorem EventsLawful.later {now now' : Nat} {es : List Event} (h : EventsLawful now es) (le : now ≤ now') :
    EventsLawful now' es := { h with past := fun e he => Nat.le_trans (h.past e he) le }

theorem eventsLawful_snoc {now : Nat} {es : List Event} {newest : Event} :
    EventsLawful now (es ++ [newest]) ↔ es.length + 1 ≤ Config.eventCapacity ∧ (∀ e ∈ es, e.isMarker = false) ∧
      (newest.isMarker = false → es.length + 1 < Config.eventCapacity) ∧ newest.stamp ≤ now ∧
      (es.Pairwise fun older newer => older.stamp ≤ newer.stamp) ∧ ∀ e ∈ es, e.stamp ≤ newest.stamp := by
  constructor
  · rintro ⟨a, b, c, d, e⟩
    simp only [List.length_append, List.length_singleton, List.dropLast_concat, List.pairwise_append] at a b c e
    refine ⟨a, b, fun m => c ?_, d _ (by simp), e.1, fun x hx => e.2.2 x hx newest (by simp)⟩
    intro x hx
    rcases List.mem_append.1 hx with hx | hx
    · exact b x hx
    · rw [List.mem_singleton.1 hx]; exact m
  · rintro ⟨a, b, c, d, e, f⟩
    refine ⟨by simpa using a, by simpa using b, fun m => ?_, fun x hx => ?_, ?_⟩
    · simpa using c (m newest (by simp))
    · rcases List.mem_append.1 hx with hx | hx
      · exact Nat.le_trans (f x hx) d
      · rw [List.mem_singleton.1 hx]; exact d
    · exact List.pairwise_append.2 ⟨e, by simp, fun x hx y hy => by rw [List.mem_singleton.1 hy]; exact f x hx⟩

theorem eventsLawful_join {now : Nat} {body : EventBody} {es : List Event} (h : EventsLawful now es) :
    EventsLawful now (joinEvents now body es) := by
  rcases List.eq_nil_or_concat es with rfl | ⟨init, newest, rfl⟩
  · exact eventsLawful_snoc (es := []).2
      ⟨by simp [Config.eventCapacity], by simp, by simp [Config.eventCapacity], Nat.le_refl _, .nil, by simp⟩
  · rw [List.concat_eq_append] at h ⊢
    have past := h.past
    have rising := h.rising
    rw [eventsLawful_snoc] at h
    obtain ⟨len, plain, room, now1, rise, before⟩ := h
    rw [joinEvents_snoc]
    cases hl : newest.body.lost with
    | some n => exact eventsLawful_snoc.2 ⟨len, plain, by simp [Event.isMarker, EventBody.lost], now1, rise, before⟩
    | none =>
      have unmarked : newest.isMarker = false := by simp [Event.isMarker, hl]
      have all : ∀ e ∈ init ++ [newest], e.isMarker = false := by
        intro e he
        rcases List.mem_append.1 he with he | he
        · exact plain e he
        · rw [List.mem_singleton.1 he]; exact unmarked
      have room := room unmarked
      by_cases hs : init.length + 1 < Config.eventCapacity - 1
      · simp only [hs, if_true]
        refine eventsLawful_snoc.2 ⟨?_, all, fun _ => ?_, Nat.le_refl _, rising, past⟩ <;>
          simp only [List.length_append, List.length_singleton, Config.eventCapacity] at * <;> omega
      · simp only [hs, if_false]
        refine eventsLawful_snoc.2 ⟨?_, all, fun m => ?_, Nat.le_refl _, rising, past⟩
        · simp only [List.length_append, List.length_singleton, Config.eventCapacity] at *; omega
        · simp [Event.isMarker, EventBody.lost] at m

theorem PostsFrom.lawful {now : Nat} {a b : List Event} (p : PostsFrom now a b) (h : EventsLawful now a) :
    EventsLawful now b := by
  obtain ⟨bodies, rfl⟩ := p
  induction bodies generalizing a with
  | nil => exact h
  | cons body rest ih => exact ih (eventsLawful_join h)

/-- Fetch Events leaves a lawful queue (11 R193). -/
theorem eventsLawful_drop {now : Nat} {es : List Event} (n : Nat) (h : EventsLawful now es) :
    EventsLawful now (es.drop n) := by
  refine ⟨?_, ?_, ?_, fun e he => h.past e (List.mem_of_mem_drop he), h.rising.sublist (List.drop_sublist n es)⟩
  · have := h.length; simp only [List.length_drop]; omega
  · intro e he
    refine h.marker e ?_
    rw [← List.take_append_drop n es] at *
    rcases List.eq_nil_or_concat (es.drop n) with hz | ⟨i, l, hz⟩
    · simp [hz] at he
    · simp only [List.concat_eq_append] at hz
      rw [hz, ← List.append_assoc, List.dropLast_concat]
      rw [List.take_append_drop, hz, List.dropLast_concat] at he
      exact List.mem_append_right _ he
  · intro all
    have hl := h.length
    simp only [List.length_drop]
    rcases Nat.eq_zero_or_pos n with rfl | hn
    · have := h.full (by simpa using all); omega
    · simp only [Config.eventCapacity] at *; omega

end Sys2Proof.Machine
end

