-- ==== Sys2Proof/Laws/Links.lean ====
section
/-! SUPPORT. The link operations of 04: each keeps a link's law, and what an offered frame may change. -/

namespace Sys2Proof.Machine

theorem countUp_le (limit n : Nat) : countUp limit n ≤ limit := Nat.min_le_right _ _

theorem Link.reset_lawful : Link.reset.Lawful := by
  constructor <;> simp [Link.reset, Link.depth, Config.holdingCapacity, Config.txCapacity, Config.hailCount, Config.loopFrames]

/-! ## Sending -/

theorem Link.send_lawful {l : Link} (f : Frame) (h : l.Lawful) : (l.send f).Lawful := { h with }

theorem Link.sendNext_lawful {l : Link} (s : State) (h : l.Lawful) : (l.sendNext s).Lawful := by
  have q := h.queue
  simp only [Link.depth] at q
  unfold Link.sendNext
  split
  · exact { h with }
  · split
    · exact { h with }
    · exact { h with }
  · rename_i up
    split
    · rename_i hu
      simp only [hu, List.length_cons] at q
      exact { h with queue := by simp only [Link.send, Link.depth]; omega, onlyUp := fun c => absurd up c }
    · rename_i hu hr
      simp only [hu, hr, List.length_cons] at q
      exact { h with queue := by simp only [Link.send, Link.depth, hu]; omega, onlyUp := fun c => absurd up c }
    · exact h
  · split
    · exact { h with }
    · exact h
  · exact h
  · exact h
  · exact h

theorem Link.startSending_lawful {l : Link} (s : State) (h : l.Lawful) : (l.startSending s).Lawful := by
  unfold Link.startSending
  split
  · exact h
  · exact Link.sendNext_lawful s h

/-- Sending touches neither the state nor the receiving half of a link. -/
theorem Link.startSending_state (s : State) (l : Link) : (l.startSending s).state = l.state := by
  unfold Link.startSending Link.sendNext Link.send
  repeat' split
  all_goals rfl

theorem Link.enqueue_lawful {l : Link} (urgent : Bool) (f : Frame) (up : l.state = .up) (h : l.Lawful) :
    (l.enqueue urgent f).Lawful := by
  have q := h.queue
  simp only [Link.depth] at q
  by_cases room : l.depth < Config.txCapacity
  · have r := room
    simp only [Link.depth] at r
    cases urgent
    · rw [show l.enqueue false f = { l with routine := l.routine ++ [f] } by simp [Link.enqueue, room]]
      exact { h with queue := by simp only [Link.depth, List.length_append, List.length_singleton]; omega,
                     onlyUp := fun c => absurd up c }
    · rw [show l.enqueue true f = { l with urgent := l.urgent ++ [f] } by simp [Link.enqueue, room]]
      exact { h with queue := by simp only [Link.depth, List.length_append, List.length_singleton]; omega,
                     onlyUp := fun c => absurd up c }
  · cases urgent
    · rw [show l.enqueue false f = l by simp [Link.enqueue, room]]
      exact h
    · cases hr : l.routine with
      | nil =>
        rw [show l.enqueue true f = { l with txOverflow := countUp 255 l.txOverflow } by simp [Link.enqueue, room, hr]]
        exact { h with txOverflow := countUp_le _ _ }
      | cons g rest =>
        rw [show l.enqueue true f = { l with routine := l.routine.dropLast, urgent := l.urgent ++ [f] } by
          simp [Link.enqueue, room, hr]]
        simp only [hr, List.length_cons] at q
        exact { h with queue := by
                         simp only [Link.depth, List.length_append, List.length_dropLast, hr, List.length_cons,
                           List.length_nil]
                         omega,
                       onlyUp := fun c => absurd up c }

theorem Link.Offered.refl (l : Link) : l.Offered l := ⟨rfl, fun _ => rfl, id⟩

theorem Link.Offered.state {l m : Link} (h : l.Offered m) : m.state = l.state := by rw [h.only]

theorem Link.Offered.trans {l m n : Link} (h : l.Offered m) (k : m.Offered n) : l.Offered n := by
  refine ⟨?_, fun c => ?_, fun c => k.lawful (h.lawful c)⟩
  · rw [k.only, h.only]
  · have e := h.idle c
    subst e
    exact k.idle c

theorem Link.Offered.enqueue (s : State) (urgent : Bool) (f : Frame) (l : Link) (up : l.state = .up) :
    l.Offered ((l.enqueue urgent f).startSending s) := by
  refine ⟨?_, fun c => absurd up c, fun h => Link.startSending_lawful s (Link.enqueue_lawful urgent f up h)⟩
  have inUp : (l.enqueue urgent f).state = .up := by
    unfold Link.enqueue; repeat' split
    all_goals exact up
  have queued : ∃ u r o, l.enqueue urgent f = { l with urgent := u, routine := r, txOverflow := o } := by
    unfold Link.enqueue; repeat' split
    all_goals exact ⟨_, _, _, rfl⟩
  obtain ⟨u, r, o, e⟩ := queued
  rw [e] at inUp ⊢
  unfold Link.startSending Link.sendNext Link.send
  simp only at *
  repeat' split
  all_goals simp_all

/-! ## The other operations -/

theorem Link.enterDown_lawful {l : Link} (s : State) (u : l.urgent = []) (r : l.routine = []) (h : l.Lawful) :
    (l.enterDown s).Lawful :=
  { h with
    hailCount := Nat.zero_le _
    onlyUp := fun _ => ⟨u, r⟩
    errorRun := ⟨h.errorRun.1, fun c => LinkState.noConfusion c⟩ }

/-- A link that is not in UP has nothing queued. -/
theorem Link.Lawful.empty {l : Link} (h : l.Lawful) (off : l.state ≠ .up) : l.urgent = [] ∧ l.routine = [] := h.onlyUp off

theorem Link.enter_lawful {l : Link} (state : LinkState) (off : l.state ≠ .up) (notUp : state ≠ .up) (h : l.Lawful) :
    (l.enter state).Lawful :=
  { h with
    onlyUp := fun _ => h.onlyUp off
    errorRun := ⟨h.errorRun.1, fun c => absurd c notUp⟩ }

theorem Link.enterFailed_lawful {l : Link} (s : State) (off : l.state ≠ .up) (h : l.Lawful) : (l.enterFailed s).Lawful :=
  { Link.enter_lawful .failed off (by simp) h with }

theorem Link.enterReadying_lawful {l : Link} (s : State) (rate : Rate) (answers : Nat) (off : l.state ≠ .up)
    (h : l.Lawful) : (l.enterReadying s rate answers).Lawful :=
  Link.startSending_lawful s { Link.enter_lawful .readying off (by simp) h with readyCount := Nat.zero_le _ }

theorem Link.hailOn_lawful {l : Link} (s : State) (h : l.Lawful) : (l.hailOn s).Lawful := by
  unfold Link.hailOn
  split
  · exact { h with }
  · split
    · exact { h with }
    · split
      · exact { h with }
      · exact Link.startSending_lawful s { h with }

theorem Link.answerHail_lawful {l : Link} (s : State) (h : l.Lawful) : (l.answerHail s).Lawful := by
  unfold Link.answerHail Link.startHail
  split
  · exact h
  · exact { h with }

theorem Link.answerHail_state (s : State) (l : Link) : (l.answerHail s).state = l.state := by
  unfold Link.answerHail Link.startHail
  split <;> rfl

theorem Link.recognize_lawful {l : Link} (s : State) (side : Side) (off : l.state ≠ .up) (h : l.Lawful) :
    (l.recognize s side).Lawful := by
  have off' : (l.answerHail s).state ≠ .up := by rw [Link.answerHail_state]; exact off
  have left := Link.answerHail_lawful s h
  cases side
  · exact Link.startSending_lawful s { Link.enter_lawful .pacing off' (by simp) left with hailCount := Nat.zero_le _ }
  · exact { Link.enter_lawful .listening off' (by simp) left with hailCount := Nat.zero_le _ }

/-- A recognition does not depend on the hail count it ends. -/
theorem Link.recognize_count (s : State) (side : Side) (n : Nat) (l : Link) :
    ({ l with hailCount := n } : Link).recognize s side = l.recognize s side := by
  unfold Link.recognize Link.answerHail Link.startHail
  cases side <;> simp only <;> split <;> rfl

theorem Link.burstEnd_lawful {l : Link} (s : State) (side : Side) (off : l.state ≠ .up) (h : l.Lawful) :
    (l.burstEnd s side).Lawful := by
  simp only [Link.burstEnd]
  split
  · rw [← Link.recognize_count s side 0]
    exact Link.recognize_lawful s side off { h with hailCount := Nat.zero_le _ }
  · rename_i few
    exact { h with hailCount := by simp only [Nat.not_le] at few; exact Nat.le_of_lt few }

theorem Link.burstStart_lawful {l : Link} (s : State) (h : l.Lawful) : (l.burstStart s).Lawful := by
  refine { h with hailCount := ?_ }
  simp only [Link.burstStart]
  split <;> split <;> first | exact Nat.zero_le _ | exact h.hailCount

theorem Link.hold_lawful {l : Link} (f : Frame) (h : l.Lawful) : (l.hold f).Lawful := by
  unfold Link.hold
  split
  · rename_i room
    exact { h with holding := by simp only [List.length_append, List.length_singleton]; omega }
  · exact { h with overruns := countUp_le _ _ }

theorem Link.hold_state (f : Frame) (l : Link) : (l.hold f).state = l.state := by
  unfold Link.hold
  split <;> rfl

theorem Link.heard_lawful {l : Link} (s : State) (h : l.Lawful) : (l.heard s).Lawful :=
  { h with errorRun := ⟨Nat.zero_le _, fun _ => Nat.zero_le _⟩ }

theorem Link.countError_lawful {l : Link} (e : FrameError) (h : l.Lawful) : (l.countError e).Lawful := by
  cases e
  · exact { h with checkErrors := countUp_le _ _ }
  · exact { h with framingErrors := countUp_le _ _ }

theorem Link.loopBack_lawful {l : Link} (seq : Nat) (h : l.Lawful) : (l.loopBack seq).Lawful := by
  simp only [Link.loopBack]
  repeat' split
  all_goals first | exact h | exact { h with loopReturned := countUp_le _ _ }

theorem Link.sent_lawful {l : Link} (s : State) (h : l.Lawful) : (l.sent s).Lawful := by
  unfold Link.sent
  split
  · exact Link.startSending_lawful s { h with }
  · exact Link.startSending_lawful s { h with loopSent := countUp_le _ _ }
  · exact Link.startSending_lawful s { h with }
  · exact Link.startSending_lawful s { h with }
  · exact { h with }
  · exact { h with }
  · exact { h with }

theorem Link.keepAlive_lawful {l : Link} (h : l.Lawful) : l.keepAlive.Lawful := by
  simp only [Link.keepAlive]
  split
  · exact { h with }
  · exact { h with }

theorem Link.stepDown_lawful {l : Link} (s : State) (off : l.state ≠ .up) (h : l.Lawful) : (l.stepDown s).Lawful := by
  unfold Link.stepDown
  split
  · exact { h with }
  · exact Link.enterFailed_lawful s off h

theorem Link.startLoop_lawful {l : Link} (s : State) (off : l.state ≠ .up) (h : l.Lawful) : (l.startLoop s).Lawful :=
  Link.startSending_lawful s
    { Link.enter_lawful .loop off (by simp) h with
      hailCount := Nat.zero_le _
      loopSent := Nat.zero_le _
      loopReturned := Nat.zero_le _ }

/-- The holding loses what a consumer takes, and nothing else of the link changes. -/
theorem takeHeld_eq {mine : FrameKind → Bool} {l m : Link} {f : Frame} (h : takeHeld mine l = some (f, m)) :
    l.state = .up ∧ m = { l with holding := l.holding.eraseP fun g => mine g.kind } := by
  unfold takeHeld at h
  split at h
  · rename_i up
    split at h
    · simp only [Option.some.injEq, Prod.mk.injEq] at h
      exact ⟨up, h.2.symm⟩
    · cases h
  · cases h

theorem takeHeld_lawful {mine : FrameKind → Bool} {l m : Link} {f : Frame} (h : takeHeld mine l = some (f, m))
    (k : l.Lawful) : m.Lawful := by
  rw [(takeHeld_eq h).2]
  exact { k with holding := Nat.le_trans (List.length_eraseP_le) k.holding }

end Sys2Proof.Machine
end

