-- ==== Sys2Proof/Laws/Ports.lean ====
section
/-! SUPPORT. The Tunable Port Controller keeps its laws (09 R154, R155, R159): one lemma for each of its operations, over an
intermediate form in which one port has stopped moving and its slot is still to be freed. -/

namespace Sys2Proof.Machine

/-! ## One entry of a list replaced -/

@[simp] theorem modifyAt_length {α : Type} (i : Nat) (f : α → α) (xs : List α) : (modifyAt i f xs).length = xs.length := by
  induction xs generalizing i with
  | nil => simp [modifyAt]
  | cons a rest ih => cases i <;> simp [modifyAt, ih]

theorem modifyAt_getElem? {α : Type} (i j : Nat) (f : α → α) (xs : List α) :
    (modifyAt i f xs)[j]? = if j = i then (xs[j]?).map f else xs[j]? := by
  induction xs generalizing i j with
  | nil => simp [modifyAt]
  | cons a rest ih => cases i <;> cases j <;> simp [modifyAt, ih]

theorem mem_modifyAt {α : Type} {i : Nat} {b c : α} {xs : List α} (h : c ∈ modifyAt i (fun _ => b) xs) :
    c = b ∨ c ∈ xs := by
  obtain ⟨j, hj⟩ := List.mem_iff_getElem?.1 h
  rw [modifyAt_getElem?] at hj
  split at hj
  · cases hx : xs[j]? with
    | none => rw [hx] at hj; cases hj
    | some x => rw [hx] at hj; cases hj; exact .inl rfl
  · exact .inr (List.mem_iff_getElem?.2 ⟨j, hj⟩)

/-- Replacing one entry takes it out of a count and puts the new one in. -/
theorem filter_modifyAt {α : Type} (p : α → Bool) {i : Nat} {a : α} {xs : List α} (b : α) (h : xs[i]? = some a) :
    ((modifyAt i (fun _ => b) xs).filter p).length + (if p a then 1 else 0) =
      (xs.filter p).length + (if p b then 1 else 0) := by
  induction xs generalizing i with
  | nil => simp at h
  | cons x rest ih =>
    cases i with
    | zero =>
      obtain rfl : x = a := by simpa using h
      by_cases hx : p x = true <;> by_cases hb : p b = true <;> simp [modifyAt, hx, hb]
    | succ j =>
      have := ih (by simpa using h)
      by_cases hx : p x = true <;> simp [modifyAt, hx] <;> omega

/-! ## At most four ports move -/

theorem filter_length_eq_sum {α : Type} (p : α → Bool) (xs : List α) :
    (xs.filter p).length = ((List.range xs.length).map fun i => if xs[i]?.any p then 1 else 0).sum := by
  induction xs with
  | nil => rfl
  | cons a rest ih =>
    rw [List.length_cons, List.range_succ_eq_map]
    simp only [List.filter_cons, List.map_cons, List.map_map, List.sum_cons, List.getElem?_cons_zero, Option.any_some,
      Function.comp_def, List.getElem?_cons_succ]
    rw [← ih]
    by_cases h : p a = true <;> simp [h] <;> omega

/-- Distinct ports hold at most the slots there are. -/
theorem sum_holds_le (slots : List Slot) (ns : List Nat) (distinct : ns.Nodup) :
    (ns.map fun port => (slots.filter fun slot => slot.holder = some port).length).sum ≤ slots.length := by
  induction slots with
  | nil => induction ns <;> simp_all
  | cons slot rest ih =>
    have one : ∀ ms : List Nat, ms.Nodup →
        (ms.map fun port => ((slot :: rest).filter fun slot => slot.holder = some port).length).sum ≤
          (ms.map fun port => (rest.filter fun slot => slot.holder = some port).length).sum +
            (if ∃ port ∈ ms, slot.holder = some port then 1 else 0) := by
      intro ms
      induction ms with
      | nil => simp
      | cons m ms ihm =>
        intro d
        rw [List.nodup_cons] at d
        have ihm := ihm d.2
        simp only [List.map_cons, List.sum_cons]
        by_cases e : slot.holder = some m
        · have rest_none : ¬ ∃ port ∈ ms, slot.holder = some port := by
            rintro ⟨port, hp, k⟩
            rw [e] at k
            cases k
            exact d.1 hp
          rw [if_neg rest_none] at ihm
          rw [if_pos ⟨m, List.mem_cons_self .., e⟩]
          simp only [List.filter_cons, e, decide_true, if_true, List.length_cons] at ihm ⊢
          omega
        · have same : (∃ port ∈ m :: ms, slot.holder = some port) ↔ ∃ port ∈ ms, slot.holder = some port := by
            constructor
            · rintro ⟨port, hp, k⟩
              rcases List.mem_cons.1 hp with rfl | hp
              · exact absurd k e
              · exact ⟨port, hp, k⟩
            · rintro ⟨port, hp, k⟩; exact ⟨port, List.mem_cons_of_mem _ hp, k⟩
          simp only [same]
          have : ((slot :: rest).filter fun slot => slot.holder = some m) = rest.filter fun slot => slot.holder = some m := by
            simp [e]
          rw [this]
          omega
    have := one ns distinct
    have one_le : (if ∃ port ∈ ns, slot.holder = some port then 1 else 0) ≤ (1 : Nat) := by split <;> omega
    rw [List.length_cons]
    omega

/-- A port holds one slot exactly while it moves: then no more ports move than there are slots. -/
theorem Tpc.moving_le_slots {t : Tpc} (held : ∀ port, t.holds port = if t.moves port then 1 else 0) :
    (t.ports.filter Port.moving).length ≤ t.slots.length := by
  rw [filter_length_eq_sum]
  have := sum_holds_le t.slots (List.range t.ports.length) List.nodup_range
  have same : (List.range t.ports.length).map (fun i => if t.ports[i]?.any Port.moving then 1 else 0) =
      (List.range t.ports.length).map fun port => (t.slots.filter fun slot => slot.holder = some port).length :=
    List.map_congr_left fun port _ => (held port).symm
  rw [same]
  exact this

/-! ## A port that has stopped -/

/-- The laws, with port `x` neither moving nor waiting and holding `n` slots still. -/
structure Tpc.Stopped (x n : Nat) (t : Tpc) : Prop where
  ports : t.ports.length = Config.ports
  slots : t.slots.length = Config.slots
  held : ∀ port, port ≠ x → t.holds port = if t.moves port then 1 else 0
  own : t.holds x = n
  still : t.moves x = false
  waiting : ∀ port ∈ t.waiting, port ≠ x ∧ ∃ p, t.ports[port]? = some p ∧ p.moving = false ∧ p.request ≠ .none
  lanes : ∀ p ∈ t.ports, ∀ lane, p.present = some lane ∨ p.target = some lane → lane < Config.lanes

theorem Tpc.Stopped.lawful {x : Nat} {t : Tpc} (h : t.Stopped x 0) : t.Lawful := by
  have held : ∀ port, t.holds port = if t.moves port then 1 else 0 := by
    intro port
    by_cases e : port = x
    · rw [e, h.own, h.still]; rfl
    · exact h.held port e
  exact ⟨h.ports, h.slots, h.slots ▸ t.moving_le_slots held, held, fun port hp => (h.waiting port hp).2, h.lanes⟩

theorem portAt_of {s : State} {port : Nat} {p : Port} (h : s.tpc.ports[port]? = some p) : portAt s port = p := by
  simp [portAt, h]

theorem ports_getElem? {s : State} (h : s.tpc.ports.length = Config.ports) {port : Nat} (lt : port < Config.ports) :
    s.tpc.ports[port]? = some (portAt s port) := by
  rw [← h] at lt
  simp [portAt, List.getElem?_eq_getElem lt]

/-- A port reads as not moving exactly when it does not move. -/
theorem moves_portAt (s : State) (port : Nat) : s.tpc.moves port = (portAt s port).moving := by
  unfold Tpc.moves portAt
  cases s.tpc.ports[port]? with
  | none => rfl
  | some p => rfl

theorem portAt_lanes {s : State} (h : s.tpc.Lawful) (port lane : Nat)
    (k : (portAt s port).present = some lane ∨ (portAt s port).target = some lane) : lane < Config.lanes := by
  unfold portAt at k
  cases e : s.tpc.ports[port]? with
  | none => rw [e] at k; simp [Port.reset] at k
  | some p => rw [e] at k; exact h.lanes p (List.mem_of_getElem? e) lane k

@[simp] theorem setPort_tpc (port : Nat) (p : Port) (s : State) :
    (setPort port p s).tpc = { s.tpc with ports := modifyAt port (fun _ => p) s.tpc.ports } := rfl

/-- The record of a port after one port is written. -/
theorem setPort_getElem? (port x : Nat) (p : Port) (s : State) :
    (setPort port p s).tpc.ports[x]? = if x = port then (s.tpc.ports[x]?).map (fun _ => p) else s.tpc.ports[x]? :=
  modifyAt_getElem? _ _ _ _

theorem setPort_moves (port x : Nat) (p : Port) (s : State) (ne : x ≠ port) :
    (setPort port p s).tpc.moves x = s.tpc.moves x := by
  unfold Tpc.moves
  rw [setPort_getElem?, if_neg ne]

theorem setPort_lanes {port : Nat} {p : Port} {s : State} (h : s.tpc.Lawful)
    (lanes : ∀ lane, p.present = some lane ∨ p.target = some lane → lane < Config.lanes) :
    ∀ q ∈ (setPort port p s).tpc.ports, ∀ lane, q.present = some lane ∨ q.target = some lane → lane < Config.lanes := by
  intro q hq lane k
  rcases mem_modifyAt hq with rfl | hq
  · exact lanes lane k
  · exact h.lanes q hq lane k

/-- A port is written without starting or stopping to move. -/
theorem lawful_setPort {port : Nat} {p : Port} {s : State} (h : s.tpc.Lawful)
    (moving : p.moving = (portAt s port).moving) (request : p.request ≠ .none ∨ p.request = (portAt s port).request)
    (lanes : ∀ lane, p.present = some lane ∨ p.target = some lane → lane < Config.lanes) :
    (setPort port p s).tpc.Lawful := by
  have held : ∀ x, (setPort port p s).tpc.holds x = if (setPort port p s).tpc.moves x then 1 else 0 := by
    intro x
    have same : (setPort port p s).tpc.moves x = s.tpc.moves x := by
      by_cases e : x = port
      · unfold Tpc.moves
        rw [setPort_getElem?, if_pos e, e]
        unfold portAt at moving
        cases k : s.tpc.ports[port]? with
        | none => rfl
        | some q => rw [k] at moving; exact moving
      · exact setPort_moves _ _ _ _ e
    rw [same]
    exact h.held x
  refine ⟨by simp [h.ports], h.slots, ?_, held, fun x hx => ?_, setPort_lanes h lanes⟩
  · have := Tpc.moving_le_slots held
    rwa [show (setPort port p s).tpc.slots.length = Config.slots from h.slots] at this
  · obtain ⟨q, hq, a, b⟩ := h.waiting x hx
    rw [setPort_getElem?]
    split
    · rename_i e
      subst e
      rw [portAt_of hq] at moving request
      refine ⟨p, by rw [hq]; rfl, by rw [moving, a], ?_⟩
      rcases request with r | r
      · exact r
      · rw [r]; exact b
    · exact ⟨q, hq, a, b⟩

/-- A port that moves has one slot, one that does not none. -/
theorem holds_portAt {s : State} (h : s.tpc.Lawful) (port : Nat) :
    s.tpc.holds port = if (portAt s port).moving then 1 else 0 := by
  rw [h.held, moves_portAt]

/-- A port is written as one that does not move, off the wait list. -/
theorem stopped_setPort {port : Nat} {p : Port} {s : State} (h : s.tpc.Lawful) (still : p.moving = false)
    (lanes : ∀ lane, p.present = some lane ∨ p.target = some lane → lane < Config.lanes) :
    (leaveWait port (setPort port p s)).tpc.Stopped port (if (portAt s port).moving then 1 else 0) := by
  refine ⟨by simp [leaveWait, h.ports], h.slots, fun x ne => ?_, holds_portAt h port, ?_, fun x hx => ?_,
    setPort_lanes h lanes⟩
  · have := setPort_moves port x p s ne
    exact (h.held x).trans (by rw [← this]; rfl)
  · show (setPort port p s).tpc.moves port = false
    unfold Tpc.moves
    rw [setPort_getElem?, if_pos rfl]
    cases s.tpc.ports[port]? with
    | none => rfl
    | some q => exact still
  · simp only [leaveWait, State.setTpc_tpc, setPort_tpc, List.mem_filter, decide_eq_true_eq] at hx
    obtain ⟨q, hq, a, b⟩ := h.waiting x hx.1
    refine ⟨hx.2, q, ?_, a, b⟩
    show (setPort port p s).tpc.ports[x]? = some q
    rw [setPort_getElem?, if_neg hx.2]
    exact hq

/-- A moving port is on no wait list. -/
theorem waiting_of_moving {port : Nat} {s : State} (h : s.tpc.Lawful) (moving : (portAt s port).moving = true) :
    s.tpc.waiting.filter (fun x => decide (x ≠ port)) = s.tpc.waiting := by
  refine List.filter_eq_self.2 fun x hx => decide_eq_true ?_
  rintro rfl
  obtain ⟨q, hq, a, _⟩ := h.waiting x hx
  rw [portAt_of hq, a] at moving
  cases moving

/-! ## Slots -/

theorem findIdx_some {α : Type} {p : α → Bool} {xs : List α} {i : Nat} (h : xs.findIdx? p = some i) :
    ∃ a, xs[i]? = some a ∧ p a = true := by
  rw [List.findIdx?_eq_some_iff_getElem] at h
  obtain ⟨lt, hp, _⟩ := h
  exact ⟨xs[i], List.getElem?_eq_getElem lt, hp⟩

/-- The slots that a port holds after one slot has another holder. -/
theorem holds_modifyAt {slots : List Slot} {i : Nat} {old new : Slot} (h : slots[i]? = some old) (port : Nat) :
    ((modifyAt i (fun _ => new) slots).filter fun slot => slot.holder = some port).length +
        (if old.holder = some port then 1 else 0) =
      (slots.filter fun slot => slot.holder = some port).length + (if new.holder = some port then 1 else 0) := by
  have := filter_modifyAt (fun slot : Slot => decide (slot.holder = some port)) new h
  simpa using this

/-- 09 R156, R158: a port with a slot request starts to move on its slot. -/
theorem beginSlot_tpc (port : Nat) (u : State) (asked : (portAt u port).request ≠ .none) :
    ∃ p : Port, p.moving = true ∧
      (∀ lane, p.present = some lane ∨ p.target = some lane →
        (portAt u port).present = some lane ∨ (portAt u port).target = some lane) ∧
      (beginSlot port u).tpc = (setPort port p u).tpc := by
  cases k : (portAt u port).request with
  | none => exact absurd k asked
  | home =>
    refine ⟨{ portAt u port with homeCount := 0, present := none, state := .homing }, rfl, ?_, ?_⟩
    · rintro lane (e | e)
      · cases e
      · exact .inr e
    · simp only [beginSlot, k]
      split
      · rfl
      · split <;> rfl
  | step =>
    exact ⟨{ portAt u port with state := .stepping }, rfl, fun _ e => e, by simp only [beginSlot, k]⟩

theorem lowest_mem {ps : List Nat} {p : Nat} (h : lowest ps = some p) : p ∈ ps := by
  cases ps with
  | nil => cases h
  | cons a rest =>
    simp only [lowest, Option.some.injEq] at h
    rw [← h]
    clear h p
    induction rest generalizing a with
    | nil => simp
    | cons b rest ih =>
      have := ih (min a b)
      simp only [List.foldl_cons, List.mem_cons] at this ⊢
      rcases this with e | m
      · rw [e]
        by_cases k : a ≤ b
        · exact .inl (Nat.min_eq_left k)
        · exact .inr (.inl (Nat.min_eq_right (Nat.le_of_not_le k)))
      · exact .inr (.inr m)

/-- A free slot is taken by a port that starts to move and leaves the wait list. -/
theorem Tpc.Lawful.taken {t : Tpc} (h : t.Lawful) {i port : Nat} {slot : Slot} {p q : Port} {d : Deadline}
    (here : t.slots[i]? = some slot) (free : slot.holder = none) (record : t.ports[port]? = some q)
    (still : q.moving = false) (moves : p.moving = true)
    (lanes : ∀ lane, p.present = some lane ∨ p.target = some lane → lane < Config.lanes) :
    Tpc.Lawful ⟨modifyAt port (fun _ => p) t.ports, modifyAt i (fun _ => ⟨some port, d⟩) t.slots,
      t.waiting.filter (· ≠ port)⟩ := by
  have held : ∀ x, Tpc.holds ⟨modifyAt port (fun _ => p) t.ports, modifyAt i (fun _ => ⟨some port, d⟩) t.slots,
      t.waiting.filter (· ≠ port)⟩ x =
      if Tpc.moves ⟨modifyAt port (fun _ => p) t.ports, modifyAt i (fun _ => ⟨some port, d⟩) t.slots,
        t.waiting.filter (· ≠ port)⟩ x then 1 else 0 := by
    intro x
    have count := holds_modifyAt (new := ⟨some port, d⟩) here x
    have before := h.held x
    simp only [Tpc.holds, Tpc.moves, modifyAt_getElem?, free, reduceCtorEq, if_false, Option.some.injEq] at count before ⊢
    by_cases e : x = port
    · subst e
      simp only [record, Option.any_some, still, if_true, Option.map_some, moves, Bool.false_eq_true, if_false] at count before ⊢
      omega
    · rw [if_neg (Ne.symm e)] at count
      rw [if_neg e]
      exact count.trans before
  refine ⟨by simp [h.ports], by simp [h.slots], ?_, held, fun x hx => ?_, fun r hr lane k => ?_⟩
  · have := Tpc.moving_le_slots held
    simpa [h.slots] using this
  · simp only [List.mem_filter, decide_eq_true_eq] at hx
    obtain ⟨r, hr, a⟩ := h.waiting x hx.1
    exact ⟨r, by rw [modifyAt_getElem?, if_neg hx.2]; exact hr, a⟩
  · rcases mem_modifyAt hr with rfl | hr
    · exact lanes lane k
    · exact h.lanes r hr lane k

/-- 09 R155: a waiting port, or one that asks now, takes a free slot and starts to move. -/
theorem lawful_takeSlot {i port : Nat} {s : State} (h : s.tpc.Lawful) {slot : Slot} (here : s.tpc.slots[i]? = some slot)
    (free : slot.holder = none) (lt : port < Config.ports) (still : (portAt s port).moving = false)
    (asked : (portAt s port).request ≠ .none) : (takeSlot i port s).tpc.Lawful := by
  obtain ⟨p, moves, lanes, tpc⟩ := beginSlot_tpc port
    ((leaveWait port s).setTpc
      { (leaveWait port s).tpc with
        slots := modifyAt i (fun _ => ⟨some port, arm s s.plan.stepInterval⟩) (leaveWait port s).tpc.slots }) asked
  rw [takeSlot, tpc]
  exact h.taken here free (ports_getElem? h.ports lt) still moves fun lane k => portAt_lanes h port lane (lanes lane k)

/-- A port that has stopped frees its slot, and the lowest-numbered waiting port takes it (09 R155). -/
theorem lawful_freeSlot {port n : Nat} {s : State} (h : s.tpc.Stopped port n) (one : n ≤ 1) :
    (freeSlot port s).tpc.Lawful := by
  simp only [freeSlot]
  split
  · rename_i none
    refine Tpc.Stopped.lawful (x := port) { h with own := ?_ }
    simp only [slotOf, List.findIdx?_eq_none_iff] at none
    simp only [Tpc.holds, List.length_eq_zero_iff, List.filter_eq_nil_iff]
    intro slot hs
    simpa using none slot hs
  · rename_i i found
    obtain ⟨slot, here, holder⟩ := findIdx_some found
    simp only [decide_eq_true_eq] at holder
    have freed : (s.setTpc { s.tpc with slots := modifyAt i (fun _ => Slot.free) s.tpc.slots }).tpc.Lawful := by
      refine Tpc.Stopped.lawful (x := port)
        ⟨h.ports, by simp [h.slots], fun x ne => ?_, ?_, h.still, h.waiting, h.lanes⟩
      · have count := holds_modifyAt (new := Slot.free) here x
        rw [holder] at count
        simp only [Option.some.injEq, Ne.symm ne, if_false, Slot.free, reduceCtorEq] at count
        exact count.trans (h.held x ne)
      · have count := holds_modifyAt (new := Slot.free) here port
        have own := h.own
        rw [holder] at count
        simp only [if_true, Slot.free, reduceCtorEq, if_false, Tpc.holds] at count own ⊢
        simp only [State.setTpc_tpc]
        omega
    split
    · exact freed
    · rename_i next hn
      have waits : next ∈ s.tpc.waiting := lowest_mem hn
      obtain ⟨ne, q, hq, still, asked⟩ := h.waiting next waits
      have lt : next < Config.ports := by
        rw [← h.ports]
        exact (List.getElem?_eq_some_iff.1 hq).1
      have same : portAt (s.setTpc { s.tpc with slots := modifyAt i (fun _ => Slot.free) s.tpc.slots }) next = q :=
        portAt_of hq
      refine lawful_takeSlot freed (slot := Slot.free) ?_ rfl lt (by rw [same]; exact still) (by rw [same]; exact asked)
      show (modifyAt i (fun _ => Slot.free) s.tpc.slots)[i]? = some Slot.free
      rw [modifyAt_getElem?, if_pos rfl, here]
      rfl

/-- A step deadline is armed: no slot changes hands. -/
theorem lawful_armStep {port : Nat} {s : State} (h : s.tpc.Lawful) : (armStep port s).tpc.Lawful := by
  have held : ∀ x, (armStep port s).tpc.holds x = s.tpc.holds x := by
    intro x
    simp only [armStep, setStep, Tpc.holds, State.setTpc_tpc, List.filter_map, List.length_map]
    congr 1
    refine List.filter_congr fun slot _ => ?_
    simp only [Function.comp]
    split <;> rfl
  exact
    { ports := h.ports, slots := by simp [armStep, setStep, h.slots], four := h.four, held := fun x => by rw [held]; exact h.held x
      waiting := h.waiting, lanes := h.lanes }

/-- The first free slot is free. -/
theorem freeSlotIndex_free {s : State} {i : Nat} (h : freeSlotIndex s = some i) :
    ∃ slot, s.tpc.slots[i]? = some slot ∧ slot.holder = none := by
  obtain ⟨slot, here, free⟩ := findIdx_some h
  exact ⟨slot, here, by simpa using free⟩

/-! ## The operations -/

theorem portAt_setPort_of {s : State} {port : Nat} (lt : port < s.tpc.ports.length) (p : Port) :
    portAt (setPort port p s) port = p := by
  refine portAt_of ?_
  rw [setPort_getElem?, if_pos rfl, List.getElem?_eq_getElem lt]
  rfl

theorem portAt_setPort {s : State} (h : s.tpc.Lawful) {port : Nat} (lt : port < Config.ports) (p : Port) :
    portAt (setPort port p s) port = p := portAt_setPort_of (by rw [h.ports]; exact lt) p

/-- A port that reads as homed or homing is one of the part's. -/
theorem port_known {s : State} {port : Nat} (h : (portAt s port).state ≠ .unhomed) : port < s.tpc.ports.length := by
  by_cases lt : port < s.tpc.ports.length
  · exact lt
  · refine absurd ?_ h
    simp [portAt, List.getElem?_eq_none (Nat.le_of_not_lt lt), Port.reset]

/-- 09 R155: a port asks for a slot. -/
theorem lawful_needSlot {port : Nat} {request : SlotRequest} {s : State} (h : s.tpc.Lawful) (lt : port < Config.ports)
    (asks : request ≠ .none) : (needSlot port request s).tpc.Lawful := by
  simp only [needSlot]
  split
  · exact h
  · rename_i still
    have still : (portAt s port).moving = false := by simpa using still
    have asked : (setPort port { portAt s port with request := request } s).tpc.Lawful :=
      lawful_setPort h rfl (.inl asks) (portAt_lanes h port)
    have here := portAt_setPort h lt { portAt s port with request := request }
    split
    · rename_i i found
      obtain ⟨slot, at', free⟩ := freeSlotIndex_free found
      exact lawful_takeSlot asked at' free lt (by rw [here]; exact still) (by rw [here]; exact asks)
    · split
      · exact asked
      · refine { asked with waiting := fun x hx => ?_ }
        rcases List.mem_append.1 hx with hx | hx
        · exact asked.waiting x hx
        · obtain rfl : x = port := by simpa using hx
          refine ⟨{ portAt s x with request := request }, ?_, still, asks⟩
          show (setPort x { portAt s x with request := request } s).tpc.ports[x]? = _
          rw [setPort_getElem?, if_pos rfl, ports_getElem? h.ports lt]
          rfl

/-- A moving port stops, and frees its slot. -/
theorem lawful_stop {port : Nat} {p : Port} {s : State} (h : s.tpc.Lawful) (moving : (portAt s port).moving = true)
    (still : p.moving = false) (lanes : ∀ lane, p.present = some lane ∨ p.target = some lane → lane < Config.lanes) :
    (freeSlot port (setPort port p s)).tpc.Lawful := by
  have off : leaveWait port (setPort port p s) = setPort port p s := by
    simp only [leaveWait, setPort, State.setTpc_tpc, waiting_of_moving h moving]
    rfl
  have stopped := stopped_setPort (port := port) h still lanes
  rw [off, moving] at stopped
  exact lawful_freeSlot stopped (Nat.le_refl _)

/-- 09 R157 -/
theorem lawful_homed {port : Nat} {s : State} (h : s.tpc.Lawful) (homing : (portAt s port).state = .homing) :
    (homed port s).tpc.Lawful := by
  have moving : (portAt s port).moving = true := by simp [Port.moving, homing]
  have old := portAt_lanes h port
  have zero : 0 < Config.lanes := by decide
  have bound : ∀ lane : Nat, some 0 = some lane ∨ (portAt s port).target = some lane → lane < Config.lanes := by
    rintro lane (k | k)
    · cases k; exact zero
    · exact old lane (.inr k)
  have posted : ∀ b, (post b s).tpc.Lawful := fun _ => h
  simp only [homed]
  split
  · rename_i t here
    refine lawful_armStep (s := setPort _ _ _) (lawful_setPort (posted _) moving.symm (.inl (by simp)) fun lane k => ?_)
    exact bound lane (by rw [here]; exact k)
  · refine lawful_stop (posted _) moving rfl fun lane k => ?_
    rcases k with k | k
    · exact bound lane (.inl k)
    · cases k
  · exact lawful_stop (posted _) moving rfl bound

/-- 09 R159: a moving port has reached its target. -/
theorem lawful_reached {port lane : Nat} {s : State} (h : s.tpc.Lawful) (moving : (portAt s port).moving = true) :
    (reached port lane s).tpc.Lawful := by
  refine lawful_stop h moving rfl fun lane k => ?_
  rcases k with k | k
  · exact portAt_lanes h port lane (.inl k)
  · cases k

/-- 09 R161 -/
theorem lawful_portFault {port : Nat} {s : State} (h : s.tpc.Lawful) : (portFault port s).tpc.Lawful := by
  have stopped := stopped_setPort (port := port)
    (p := { portAt s port with
      state := .fault, present := none, target := none, request := .none, homeCount := 0 }) h rfl
    (fun lane k => by rcases k with k | k <;> cases k)
  have freed : ∀ u : State, u.tpc.Stopped port (if (portAt s port).moving = true then 1 else 0) →
      (freeSlot port u).tpc.Lawful := fun u k => lawful_freeSlot k (by split <;> omega)
  exact freed _ stopped

/-- 09 R158, R160: a retune. -/
theorem lawful_retune {port lane : Nat} {s : State} (h : s.tpc.Lawful) : (retune port lane s).tpc.Lawful := by
  unfold retune
  split
  · rename_i bounds
    simp only [Bool.and_eq_true, decide_eq_true_eq] at bounds
    have old := portAt_lanes h port
    have target : ∀ x : Nat, (portAt s port).present = some x ∨ some lane = some x → x < Config.lanes := by
      rintro x (k | k)
      · exact old x (.inl k)
      · cases k; exact bounds.2
    have held : (setPort port { portAt s port with target := some lane } s).tpc.Lawful :=
      lawful_setPort h rfl (.inr rfl) target
    have here := portAt_setPort h bounds.1 { portAt s port with target := some lane }
    simp only [retuneByState]
    split
    · exact held
    · exact held
    · split
      · split
        · refine Tpc.Stopped.lawful (x := port) ?_
          rename_i idle _ _
          have still : (portAt s port).moving = false := by simp [Port.moving, idle]
          have stopped := stopped_setPort (port := port) (p := { portAt s port with target := none, request := .none }) h still
            (fun x k => by
              rcases k with k | k
              · exact old x (.inl k)
              · cases k)
          rw [still] at stopped
          exact stopped
        · exact held
      · split
        · exact h
        · exact lawful_needSlot held bounds.1 (by simp)
    · rename_i stepping
      split
      · exact lawful_reached held (by rw [here]; simp [Port.moving, stepping])
      · exact lawful_armStep held
    · split
      · exact held
      · exact h
  · exact h

theorem towards_lt {lane target : Nat} (a : lane < Config.lanes) (b : target < Config.lanes) :
    towards lane target < Config.lanes := by
  unfold towards
  split <;> omega

/-- 09 R159 -/
theorem lawful_stepOnce {port : Nat} {s : State} (h : s.tpc.Lawful) (stepping : (portAt s port).state = .stepping) :
    (stepOnce port s).tpc.Lawful := by
  have moving : (portAt s port).moving = true := by simp [Port.moving, stepping]
  simp only [stepOnce]
  split
  · rename_i lane target here there
    have old := portAt_lanes h port
    have next := towards_lt (old lane (.inl here)) (old target (.inr there))
    have moved : ∀ q, (setPort port { portAt s port with lastPulse := q, present := some (towards lane target) } s).tpc.Lawful :=
      fun q => lawful_setPort h rfl (.inr rfl) fun x k => by
        rcases k with k | k
        · cases k; exact next
        · exact old x (.inr k)
    split
    · refine lawful_reached (moved _) ?_
      rw [portAt_setPort_of (port_known (by rw [stepping]; simp))]
      exact moving
    · exact lawful_armStep (moved _)
  · exact h

/-- 09 R156 -/
theorem lawful_homeOnce {port : Nat} {s : State} (h : s.tpc.Lawful) : (homeOnce port s).tpc.Lawful := by
  simp only [homeOnce]
  split
  · exact lawful_armStep (lawful_setPort h rfl (.inr rfl) (portAt_lanes h port))
  · exact lawful_portFault h

end Sys2Proof.Machine
end

