-- ==== Sys2Proof/Laws/Quiet.lean ====
section
/-! SUPPORT. What the circuit blocks may do to the state: `Quiet` for the Circuit Logic and the Detour Claim Engine, `Below`
for the blocks they ask, which leave the Circuit Table alone too, and `Aside` for the parts of a Tunable Port Controller
operation, which keeps its laws (Laws/Ports.lean) as a whole alone. One lemma for each operation of the Lane Switch Driver,
the Spare Lane Map, the Tunable Port Controller and the claim-family frames. -/

namespace Sys2Proof.Machine

theorem Quiet.refl (s : State) : Quiet s s :=
  ⟨rfl, rfl, rfl, rfl, rfl, rfl, rfl, rfl, rfl, rfl, rfl, rfl, .refl _ _, fun _ => .refl _, rfl⟩

theorem Quiet.trans {s t u : State} (h : Quiet s t) (k : Quiet t u) : Quiet s u where
  pending := k.pending.trans h.pending
  rstnLow := k.rstnLow.trans h.rstnLow
  powerOnDue := k.powerOnDue.trans h.powerOnDue
  clock := k.clock.trans h.clock
  pld := k.pld.trans h.pld
  mon := k.mon.trans h.mon
  nrv := k.nrv.trans h.nrv
  toCcl := k.toCcl.trans h.toCcl
  toDce := k.toDce.trans h.toDce
  rx := k.rx.trans h.rx
  owed := k.owed.trans h.owed
  resetDue := k.resetDue.trans h.resetDue
  events := h.events.trans (h.clock ▸ k.events)
  links := fun side => (h.links side).trans (k.links side)
  ids := k.ids.trans h.ids

/-- `Quiet`, with the Circuit Table and the extent of the Spare Lane Map as they were, and the claim queue in order. -/
structure Aside (s t : State) : Prop where
  quiet : Quiet s t
  circuits : t.circuits = s.circuits
  extent : ∀ side, (t.lanes.get side).length = (s.lanes.get side).length
  order : queueLawful s → queueLawful t

theorem Aside.refl (s : State) : Aside s s := ⟨.refl s, rfl, fun _ => rfl, id⟩

theorem Aside.trans {s t u : State} (h : Aside s t) (k : Aside t u) : Aside s u :=
  ⟨h.quiet.trans k.quiet, k.circuits.trans h.circuits, fun side => (k.extent side).trans (h.extent side),
    fun l => k.order (h.order l)⟩

/-- `Aside`, and the Tunable Port Controller keeps its laws. -/
structure Below (s t : State) : Prop extends Aside s t where
  ports : s.tpc.Lawful → t.tpc.Lawful

theorem Below.refl (s : State) : Below s s := ⟨.refl s, id⟩

theorem Below.trans {s t u : State} (h : Below s t) (k : Below t u) : Below s u :=
  ⟨h.toAside.trans k.toAside, fun l => k.ports (h.ports l)⟩

/-- An operation that leaves the Tunable Port Controller alone. -/
theorem Aside.below {s t : State} (h : Aside s t) (tpc : t.tpc = s.tpc) : Below s t := ⟨h, fun l => tpc ▸ l⟩

/-- A fold of operations that are all below. -/
theorem Below.foldl {α : Type} {f : State → α → State} (h : ∀ s a, Below s (f s a)) (s : State) (xs : List α) :
    Below s (xs.foldl f s) := by
  induction xs generalizing s with
  | nil => exact .refl s
  | cons a rest ih => exact (h s a).trans (ih _)

/-! ## Updates of one part -/

/-- The claim queue is replaced by one in order. -/
theorem below_setQueue {q : List QueueEntry} {s : State} (h : queueLawful s → queueLawful (s.setQueue q)) :
    Below s (s.setQueue q) :=
  ⟨⟨⟨rfl, rfl, rfl, rfl, rfl, rfl, rfl, rfl, rfl, rfl, rfl, rfl, .refl _ _, fun _ => .refl _, rfl⟩, rfl, fun _ => rfl, h⟩, id⟩

theorem below_setLsd (l : Lsd) (s : State) : Below s (s.setLsd l) :=
  ⟨⟨⟨rfl, rfl, rfl, rfl, rfl, rfl, rfl, rfl, rfl, rfl, rfl, rfl, .refl _ _, fun _ => .refl _, rfl⟩, rfl, fun _ => rfl, id⟩, id⟩

theorem below_setWork (w : List Work) (s : State) : Below s (s.setWork w) :=
  ⟨⟨⟨rfl, rfl, rfl, rfl, rfl, rfl, rfl, rfl, rfl, rfl, rfl, rfl, .refl _ _, fun _ => .refl _, rfl⟩, rfl, fun _ => rfl, id⟩, id⟩

theorem aside_setTpc (t : Tpc) (s : State) : Aside s (s.setTpc t) :=
  ⟨⟨rfl, rfl, rfl, rfl, rfl, rfl, rfl, rfl, rfl, rfl, rfl, rfl, .refl _ _, fun _ => .refl _, rfl⟩, rfl, fun _ => rfl, id⟩

theorem quiet_setLanes (side : Side) (m : List LaneEntry) (s : State) : Quiet s (s.setLanes side m) :=
  ⟨rfl, rfl, rfl, rfl, rfl, rfl, rfl, rfl, rfl, rfl, rfl, rfl, .refl _ _, fun _ => .refl _, rfl⟩

/-- A side of the Spare Lane Map takes entries for the same lanes. -/
theorem below_setLanes {side : Side} {m : List LaneEntry} {s : State} (h : m.length = (s.lanes.get side).length) :
    Below s (s.setLanes side m) := by
  refine ⟨⟨quiet_setLanes side m s, rfl, fun x => ?_, id⟩, id⟩
  simp only [State.setLanes, Both.get_set]
  split
  · rename_i e; rw [e]; exact h
  · rfl

theorem below_addWork (w : Work) (s : State) : Below s (addWork w s) := below_setWork _ s

theorem below_post (body : EventBody) (s : State) : Below s (post body s) :=
  ⟨⟨⟨rfl, rfl, rfl, rfl, rfl, rfl, rfl, rfl, rfl, rfl, rfl, rfl, .one _ _ _, fun _ => .refl _, rfl⟩, rfl, fun _ => rfl, id⟩, id⟩

theorem below_setLink_offered {side : Side} {l : Link} {s : State} (h : (s.linkAt side).Offered l) :
    Below s (s.setLink side l) := by
  refine ⟨⟨⟨rfl, rfl, rfl, rfl, rfl, rfl, rfl, rfl, rfl, rfl, rfl, rfl, .refl _ _, fun x => ?_, rfl⟩, rfl, fun _ => rfl, id⟩, id⟩
  rw [State.setLink_linkAt]
  split
  · rename_i e; rw [e]; exact h
  · exact .refl _

theorem below_offerUp (side : Side) (urgent : Bool) (f : Frame) (s : State) (up : (s.linkAt side).state = .up) :
    Below s (offerUp side urgent f s) :=
  below_setLink_offered (Link.Offered.enqueue s urgent f _ up)

theorem below_offerNotice (side : Side) (urgent : Bool) (f : Frame) (s : State) :
    Below s (offerNotice side urgent f s) := by
  unfold offerNotice
  split
  · rename_i up; exact below_offerUp side urgent f s up
  · exact .refl s

/-! ## Lane Switch Driver (09 section 9.1) -/

theorem below_laneWrite (side : Side) (lane : Nat) (setting : Setting) (who : Option Nat) (s : State) :
    Below s (laneWrite side lane setting who s) := below_setLsd _ s

theorem below_laneUndo (side : Side) (lane : Nat) (removes : Setting) (who : Option Nat) (s : State) :
    Below s (laneUndo side lane removes who s) := by
  simp only [laneUndo]
  split
  · exact below_setLsd _ s
  · split
    · exact below_setLsd _ s
    · exact (below_setLsd _ s).trans (below_addWork _ _)

theorem below_lanePass (lane : Nat) (s : State) : Below s (lanePass lane s) :=
  (below_laneWrite .east lane .pass none s).trans (below_laneWrite .west lane .pass none _)

theorem below_laneLoad (setting : Side → Nat → Setting) (s : State) : Below s (laneLoad setting s) := below_setLsd _ s

/-! ## Spare Lane Map and claim-family frames (08) -/

theorem below_setLane (side : Side) (lane : Nat) (e : LaneEntry) (s : State) : Below s (setLane side lane e s) := by
  unfold setLane
  split
  · exact below_setLanes (modifyAt_length _ _ _)
  · exact .refl s

theorem below_freeLane (side : Side) (lane : Nat) (s : State) : Below s (freeLane side lane s) := below_setLane _ _ _ s

theorem below_freeEntry (side : Side) (lane : Nat) (s : State) : Below s (freeEntry side lane s) := by
  unfold freeEntry
  split
  · split
    · exact (below_freeLane side lane s).trans (below_laneUndo _ _ _ _ _)
    · exact below_freeLane side lane s
  · exact below_freeLane side lane s
  · exact .refl s

theorem below_freeAttempt (lane id head tag : Nat) (s : State) : Below s (freeAttempt lane id head tag s) := by
  have one : ∀ (side : Side) (u : State), Below u (if entryMatches u side lane id head tag then freeEntry side lane u else u) := by
    intro side u
    split
    · exact below_freeEntry _ _ u
    · exact .refl u
  exact (one .east s).trans (one .west _)

theorem below_offerClaim {side : Side} {f : Frame} {s t : State} (h : offerClaim side f s = some t) : Below s t := by
  unfold offerClaim at h
  split at h
  · rename_i up
    cases h
    exact below_offerUp side true f s up
  · cases h

theorem below_offerOrDrop (side : Side) (f : Frame) (s : State) : Below s (offerOrDrop side f s) := by
  unfold offerOrDrop
  cases h : offerClaim side f s with
  | none => exact .refl s
  | some t => exact below_offerClaim h

theorem below_sendRelease (m : Attempted) (s : State) : Below s (sendRelease m s) := below_offerOrDrop _ _ s

theorem below_sendRefusal (side : Side) (m : Attempted) (reason : Reason) (s : State) :
    Below s (sendRefusal side m reason s) := below_offerOrDrop _ _ s

theorem below_withdraw (m : Attempted) (s : State) : Below s (withdraw m s) := by
  unfold withdraw
  split
  · exact (below_freeLane _ _ s).trans (below_sendRelease _ _)
  · exact below_sendRelease _ _

/-! ## Tunable Port Controller (09 section 9.2) -/

theorem aside_setPort (port : Nat) (p : Port) (s : State) : Aside s (setPort port p s) := aside_setTpc _ s

theorem aside_armStep (port : Nat) (s : State) : Aside s (armStep port s) := aside_setTpc _ s

theorem aside_leaveWait (port : Nat) (s : State) : Aside s (leaveWait port s) := aside_setTpc _ s

theorem aside_beginSlot (port : Nat) (s : State) : Aside s (beginSlot port s) := by
  simp only [beginSlot]
  split
  · exact .refl s
  · split
    · exact (aside_setPort _ _ s).trans (below_addWork _ _).toAside
    · split
      · exact (aside_setPort _ _ s).trans (below_addWork _ _).toAside
      · exact aside_setPort _ _ s
  · exact aside_setPort _ _ s

theorem aside_takeSlot (i port : Nat) (s : State) : Aside s (takeSlot i port s) :=
  ((aside_leaveWait port s).trans (aside_setTpc _ _)).trans (aside_beginSlot port _)

theorem aside_needSlot (port : Nat) (request : SlotRequest) (s : State) : Aside s (needSlot port request s) := by
  simp only [needSlot]
  split
  · exact .refl s
  split
  · exact (aside_setPort _ _ s).trans (aside_takeSlot _ _ _)
  · split
    · exact aside_setPort _ _ s
    · exact (aside_setPort _ _ s).trans (aside_setTpc _ _)

theorem aside_freeSlot (port : Nat) (s : State) : Aside s (freeSlot port s) := by
  simp only [freeSlot]
  split
  · exact .refl s
  · split
    · exact aside_setTpc _ s
    · exact (aside_setTpc _ s).trans (aside_takeSlot _ _ _)

theorem aside_homed (port : Nat) (s : State) : Aside s (homed port s) := by
  simp only [homed]
  split
  · exact (((below_post _ s).toAside.trans (aside_setPort _ _ _)).trans (aside_armStep _ _)).trans (below_addWork _ _).toAside
  · exact ((((below_post _ s).toAside.trans (aside_setPort _ _ _)).trans (aside_freeSlot _ _)).trans (below_addWork _ _).toAside).trans
      (below_addWork _ _).toAside
  · exact (((below_post _ s).toAside.trans (aside_setPort _ _ _)).trans (aside_freeSlot _ _)).trans (below_addWork _ _).toAside

theorem aside_reached (port lane : Nat) (s : State) : Aside s (reached port lane s) :=
  ((aside_setPort _ _ s).trans (aside_freeSlot _ _)).trans (below_addWork _ _).toAside

theorem aside_portFault (port : Nat) (s : State) : Aside s (portFault port s) :=
  ((((aside_setPort _ _ s).trans (below_post _ _).toAside).trans (aside_leaveWait _ _)).trans (aside_freeSlot _ _)).trans
    (below_addWork _ _).toAside

theorem aside_retuneByState (port lane : Nat) (s : State) : Aside s (retuneByState port lane s) := by
  simp only [retuneByState]
  split
  · exact aside_setPort _ _ s
  · exact aside_setPort _ _ s
  · split
    · split
      · exact ((aside_setPort _ _ s).trans (aside_leaveWait _ _)).trans (below_addWork _ _).toAside
      · exact aside_setPort _ _ s
    · split
      · exact (below_addWork _ s).toAside
      · exact (aside_setPort _ _ s).trans (aside_needSlot _ _ _)
  · split
    · exact (aside_setPort _ _ s).trans (aside_reached _ _ _)
    · exact (aside_setPort _ _ s).trans (aside_armStep _ _)
  · split
    · exact aside_setPort _ _ s
    · exact .refl s

theorem aside_retune (port lane : Nat) (s : State) : Aside s (retune port lane s) := by
  unfold retune
  split
  · exact aside_retuneByState port lane s
  · exact .refl s

theorem aside_stepOnce (port : Nat) (s : State) : Aside s (stepOnce port s) := by
  simp only [stepOnce]
  split
  · split
    · exact (aside_setPort _ _ s).trans (aside_reached _ _ _)
    · exact (aside_setPort _ _ s).trans (aside_armStep _ _)
  · exact .refl s

theorem aside_homeOnce (port : Nat) (s : State) : Aside s (homeOnce port s) := by
  simp only [homeOnce]
  split
  · exact (aside_setPort _ _ s).trans (aside_armStep _ _)
  · exact aside_portFault port s

/-- A port is written without starting or stopping to move. -/
theorem below_setPort {port : Nat} {p : Port} {s : State} (moving : p.moving = (portAt s port).moving)
    (request : p.request ≠ .none ∨ p.request = (portAt s port).request)
    (lanes : s.tpc.Lawful → ∀ lane, p.present = some lane ∨ p.target = some lane → lane < Config.lanes) :
    Below s (setPort port p s) := ⟨aside_setPort port p s, fun h => lawful_setPort h moving request (lanes h)⟩

theorem below_needSlot {port : Nat} {request : SlotRequest} (s : State) (lt : port < Config.ports)
    (asks : request ≠ .none) : Below s (needSlot port request s) :=
  ⟨aside_needSlot _ _ s, fun h => lawful_needSlot h lt asks⟩

theorem below_homed {port : Nat} {s : State} (homing : (portAt s port).state = .homing) : Below s (homed port s) :=
  ⟨aside_homed _ s, fun h => lawful_homed h homing⟩

theorem below_portFault (port : Nat) (s : State) : Below s (portFault port s) := ⟨aside_portFault _ s, lawful_portFault⟩

theorem below_retune (port lane : Nat) (s : State) : Below s (retune port lane s) := ⟨aside_retune _ _ s, lawful_retune⟩

theorem below_stepOnce {port : Nat} {s : State} (stepping : (portAt s port).state = .stepping) :
    Below s (stepOnce port s) := ⟨aside_stepOnce _ s, fun h => lawful_stepOnce h stepping⟩

theorem below_homeOnce (port : Nat) (s : State) : Below s (homeOnce port s) := ⟨aside_homeOnce _ s, lawful_homeOnce⟩

end Sys2Proof.Machine
end

