-- ==== Sys2Proof/Laws/Circuits.lean ====
section
/-! SUPPORT. The Circuit Logic (06, 10): each of its operations is quiet and starts no claim. `Backed` says that a record an
operation was given is no newer a claimant than the table's own; every operation on the table's own records has it. -/

namespace Sys2Proof.Machine

/-- A record holds a window slot (06 R93). -/
def Circuit.claims (c : Circuit) : Bool := c.role = .head && c.state = .claiming

/-- A record stands for one of the table: for one that holds a slot if it does, and it keeps its laws when the table's
records do. -/
structure Backed (s : State) (c : Circuit) : Prop where
  known : ∃ d ∈ s.circuits, d.id = c.id
  slot : c.claims = true → ∃ d ∈ s.circuits, d.id = c.id ∧ d.claims = true
  lawful : circuitsLawful s → c.Lawful

/-- Quiet, with the extent of the Spare Lane Map as it was, the claim queue in order, and the laws of the ports and those of
the records kept. -/
structure Orderly (s t : State) : Prop where
  quiet : Quiet s t
  extent : ∀ side, (t.lanes.get side).length = (s.lanes.get side).length
  order : queueLawful s → queueLawful t
  ports : s.tpc.Lawful → t.tpc.Lawful
  records : circuitsLawful s → circuitsLawful t

theorem Orderly.refl (s : State) : Orderly s s := ⟨.refl s, fun _ => rfl, id, id, id⟩

theorem Orderly.trans {s t u : State} (h : Orderly s t) (k : Orderly t u) : Orderly s u :=
  ⟨h.quiet.trans k.quiet, fun side => (k.extent side).trans (h.extent side), fun l => k.order (h.order l),
    fun l => k.ports (h.ports l),    fun l => k.records (h.records l)⟩

/-- Orderly, and no more slots in use than before while the ids are distinct. -/
structure Calm (s t : State) : Prop extends Orderly s t where
  slots : (s.circuits.map (·.id)).Nodup → slotsUsed t ≤ slotsUsed s

theorem Calm.refl (s : State) : Calm s s := ⟨.refl s, fun _ => Nat.le_refl _⟩

theorem Calm.trans {s t u : State} (h : Calm s t) (k : Calm t u) : Calm s u :=
  ⟨h.toOrderly.trans k.toOrderly, fun d => Nat.le_trans (k.slots (h.quiet.ids ▸ d)) (h.slots d)⟩

theorem Below.calm {s t : State} (h : Below s t) : Calm s t :=
  ⟨⟨h.quiet, h.extent, h.order, h.ports, fun l => by unfold circuitsLawful; rw [h.circuits]; exact l⟩,
    fun _ => by simp [slotsUsed, h.circuits]⟩

theorem Below.backed {s t : State} {c : Circuit} (h : Below s t) (b : Backed s c) : Backed t c := by
  refine ⟨?_, ?_, fun l => b.lawful ?_⟩
  · rw [h.circuits]; exact b.known
  · rw [h.circuits]; exact b.slot
  · unfold circuitsLawful at l; rw [h.circuits] at l; exact l

theorem slotsUsed_eq (s : State) : slotsUsed s = (s.circuits.filter Circuit.claims).length := rfl

theorem Backed.of_mem {s : State} {c : Circuit} (h : c ∈ s.circuits) : Backed s c :=
  ⟨⟨c, h, rfl⟩, fun k => ⟨c, h, rfl, k⟩, fun l => l c h⟩

theorem findCircuit_mem {s : State} {id : Nat} {c : Circuit} (h : findCircuit s id = some c) :
    c ∈ s.circuits ∧ c.id = id := by
  unfold findCircuit at h
  exact ⟨List.mem_of_find?_eq_some h, by simpa using List.find?_some h⟩

/-- A change that keeps id, role and state, and keeps the record's laws. -/
theorem Backed.change {s : State} {c d : Circuit} (b : Backed s c) (id : d.id = c.id) (role : d.role = c.role)
    (state : d.state = c.state) (lawful : c.Lawful → d.Lawful) : Backed s d := by
  refine ⟨id ▸ b.known, fun k => ?_, fun l => lawful (b.lawful l)⟩
  rw [id]
  exact b.slot (by simpa [Circuit.claims, role, state] using k)

/-- A change that keeps id, role, state, attempt count and wait-to-restore deadline. -/
theorem Backed.update {s : State} {c d : Circuit} (b : Backed s c) (id : d.id = c.id := by rfl)
    (role : d.role = c.role := by rfl) (state : d.state = c.state := by rfl) (count : d.count = c.count := by rfl)
    (wait : d.waitToRestore = c.waitToRestore := by rfl) : Backed s d :=
  b.change id role state fun l => ⟨by rw [count]; exact l.count, by rw [state, wait]; exact l.waiting⟩

/-- A change of the attempt count, and of nothing that holds a slot or waits to restore. -/
theorem Backed.counted {s : State} {c d : Circuit} (b : Backed s c) (count : d.count ≤ Config.attempts)
    (id : d.id = c.id := by rfl) (role : d.role = c.role := by rfl) (state : d.state = c.state := by rfl)
    (wait : d.waitToRestore = c.waitToRestore := by rfl) : Backed s d :=
  b.change id role state fun l => ⟨count, by rw [state, wait]; exact l.waiting⟩

/-! ## The table's records -/

/-- Replacing the records of one id keeps every id. -/
theorem map_put_ids (c : Circuit) (cs : List Circuit) :
    (cs.map fun old => if old.id = c.id then c else old).map (·.id) = cs.map (·.id) := by
  rw [List.map_map]
  refine List.map_congr_left fun old _ => ?_
  simp only [Function.comp]
  split
  · rename_i e; exact e.symm
  · rfl

/-- With distinct ids, replacing one record adds a claimant only when that record claims and the old one did not. -/
theorem filter_put_le (c : Circuit) (cs : List Circuit) (distinct : (cs.map (·.id)).Nodup) :
    ((cs.map fun old => if old.id = c.id then c else old).filter Circuit.claims).length ≤
      (cs.filter Circuit.claims).length +
        (if c.claims = true ∧ ∀ d ∈ cs, d.id = c.id → d.claims = false then 1 else 0) := by
  induction cs with
  | nil => simp
  | cons d rest ih =>
    rw [List.map_cons, List.nodup_cons] at distinct
    have ih := ih distinct.2
    by_cases e : d.id = c.id
    · have same : (rest.map fun old => if old.id = c.id then c else old) = rest := by
        conv => rhs; rw [← List.map_id rest]
        refine List.map_congr_left fun old h => ?_
        have : old.id ≠ c.id := by
          intro k
          exact distinct.1 (by rw [e, ← k]; exact List.mem_map_of_mem h)
        simp [this]
      rw [List.map_cons, same]
      simp only [e, if_true, List.filter_cons]
      cases hc : c.claims <;> cases hd : d.claims
      · simp
      · simp
      · have : ∀ x ∈ d :: rest, x.id = c.id → x.claims = false := by
          intro x hx k
          rcases List.mem_cons.1 hx with rfl | hx
          · exact hd
          · exact absurd (by rw [e, ← k]; exact List.mem_map_of_mem hx) distinct.1
        simp only [if_true, List.length_cons, Bool.false_eq_true, if_false, true_and]
        exact Nat.le_of_eq (by rw [if_pos this])
      · simp
    · rw [List.map_cons, if_neg e]
      simp only [List.filter_cons]
      have mono : (if c.claims = true ∧ ∀ x ∈ rest, x.id = c.id → x.claims = false then 1 else 0) ≤
          (if c.claims = true ∧ ∀ x ∈ d :: rest, x.id = c.id → x.claims = false then (1 : Nat) else 0) := by
        split
        · rename_i h
          have : c.claims = true ∧ ∀ x ∈ d :: rest, x.id = c.id → x.claims = false := by
            refine ⟨h.1, fun x hx k => ?_⟩
            rcases List.mem_cons.1 hx with rfl | hx
            · exact absurd k e
            · exact h.2 x hx k
          exact Nat.le_of_eq (by rw [if_pos this])
        · exact Nat.zero_le _
      split
      · simp only [List.length_cons]; omega
      · omega

theorem quiet_setCircuits {cs : List Circuit} {s : State} (h : cs.map (·.id) = s.circuits.map (·.id)) :
    Quiet s (s.setCircuits cs) :=
  ⟨rfl, rfl, rfl, rfl, rfl, rfl, rfl, rfl, rfl, rfl, rfl, rfl, .refl _ _, fun _ => .refl _, h⟩

theorem quiet_putCircuit (c : Circuit) (s : State) : Quiet s (putCircuit c s) := quiet_setCircuits (map_put_ids c _)

/-- A put raises the slots in use by one at most. -/
theorem slots_putCircuit (c : Circuit) (s : State) (distinct : (s.circuits.map (·.id)).Nodup) :
    slotsUsed (putCircuit c s) ≤ slotsUsed s + 1 := by
  have h := filter_put_le c s.circuits distinct
  simp only [slotsUsed_eq, putCircuit, State.setCircuits_circuits]
  split at h <;> omega

/-- A lawful record put in a lawful table leaves it lawful. -/
theorem lawful_putCircuit {c : Circuit} {s : State} (l : circuitsLawful s) (h : c.Lawful) :
    circuitsLawful (putCircuit c s) := by
  intro d hd
  obtain ⟨old, ho, rfl⟩ := List.mem_map.1 hd
  split
  · exact h
  · exact l old ho

theorem orderly_putCircuit {c : Circuit} {s : State} (h : circuitsLawful s → c.Lawful) : Orderly s (putCircuit c s) :=
  ⟨quiet_putCircuit c s, fun _ => rfl, id, id, fun l => lawful_putCircuit l (h l)⟩

theorem calm_putCircuit {c : Circuit} {s : State} (b : Backed s c) : Calm s (putCircuit c s) := by
  refine ⟨orderly_putCircuit b.lawful, fun distinct => ?_⟩
  have h := filter_put_le c s.circuits distinct
  simp only [slotsUsed_eq, putCircuit, State.setCircuits_circuits]
  split at h
  · rename_i k
    obtain ⟨d, hd, e, hc⟩ := b.slot k.1
    rw [k.2 d hd e] at hc
    cases hc
  · omega

/-- A record that stands for one of the table is the table's own once it is put there. -/
theorem Backed.put {s : State} {c : Circuit} (b : Backed s c) : Backed (putCircuit c s) c := by
  obtain ⟨d, hd, e⟩ := b.known
  exact .of_mem (List.mem_map.2 ⟨d, hd, by simp [e]⟩)

theorem calm_updateCircuit {f : Circuit → Circuit} {c : Circuit} {s : State} (b : Backed s (f c)) :
    Calm s (updateCircuit f c s) := calm_putCircuit b

/-- An action that is calm on backed records is calm on the record of an id, and on those of several. -/
theorem calm_onCircuit {act : Circuit → State → State} (h : ∀ c s, Backed s c → Calm s (act c s)) (id : Nat) (s : State) :
    Calm s (onCircuit id act s) := by
  unfold onCircuit
  split
  · rename_i c e; exact h c s (.of_mem (findCircuit_mem e).1)
  · exact .refl s

theorem calm_onEach {act : Circuit → State → State} (h : ∀ c s, Backed s c → Calm s (act c s)) (ids : List Nat)
    (s : State) : Calm s (onEach ids act s) := by
  unfold onEach
  induction ids generalizing s with
  | nil => exact .refl s
  | cons id rest ih => exact (calm_onCircuit h id s).trans (ih _)

/-! ## State changes -/

/-- The record that a change of state leaves keeps its laws. -/
theorem lawful_moved {new : CircuitState} {reason : Reason} {f : Circuit → Circuit} {c : Circuit} (l : c.Lawful)
    (count : (f c).count = c.count) (wait : new = .waitRestore → (f c).waitToRestore.isSome = true) :
    Circuit.Lawful
      { f c with
        state := new, reason := reason,
        waitToRestore := if new = .waitRestore then (f c).waitToRestore else none } := by
  refine ⟨by rw [count]; exact l.count, ?_⟩
  by_cases e : new = .waitRestore
  · simp only [e, if_true, iff_true]; exact wait e
  · simp [e]

theorem calm_moveTo {new : CircuitState} {reason : Reason} {f : Circuit → Circuit} (c : Circuit) (s : State)
    (b : Backed s c) (h : new ≠ .claiming := by simp) (id : (f c).id = c.id := by rfl) (count : (f c).count = c.count := by rfl)
    (wait : new = .waitRestore → (f c).waitToRestore.isSome = true := by simp) : Calm s (moveTo new reason f c s) := by
  have put : ∀ r, Calm s (putCircuit
      { f c with
        state := new, reason := r, waitToRestore := if new = .waitRestore then (f c).waitToRestore else none } s) :=
    fun r => calm_putCircuit
      ⟨id ▸ b.known, fun k => by simp [Circuit.claims, h] at k, fun l => lawful_moved (b.lawful l) count wait⟩
  simp only [moveTo]
  split
  · exact put _
  · exact (put _).trans (below_post _ _).calm

theorem below_addDrop (side : Side) (lane : Nat) (c : Circuit) (s : State) : Below s (addDrop side lane c s) :=
  below_laneWrite _ _ _ _ s

theorem below_dropLane (side : Side) (lane : Nat) (c : Circuit) (s : State) : Below s (dropLane side lane c s) :=
  below_laneUndo _ _ _ _ s

theorem below_turnHome (lane : Nat) (c : Circuit) (s : State) : Below s (turnHome lane c s) :=
  ((below_addDrop _ _ _ s).trans (below_dropLane _ _ _ _)).trans (below_retune _ _ _)

theorem below_withdrawOf (c : Circuit) (s : State) : Below s (withdrawOf c s) := by
  unfold withdrawOf
  split
  · exact below_withdraw _ s
  · exact .refl s

theorem calm_revertParked (lane : Nat) (c : Circuit) (s : State) (b : Backed s c) : Calm s (revertParked lane c s) :=
  (below_turnHome lane c s).calm.trans (calm_moveTo c _ ((below_turnHome lane c s).backed b))

theorem calm_revertDetour (c : Circuit) (s : State) (b : Backed s c) : Calm s (revertDetour c s) := by
  unfold revertDetour
  split
  · rename_i lane _
    have home := (below_withdrawOf c s).trans (below_turnHome lane c _)
    exact home.calm.trans (calm_moveTo c _ (home.backed b))
  · exact .refl s

theorem calm_goHome (c : Circuit) (s : State) (b : Backed s c) : Calm s (goHome c s) := by
  unfold goHome
  split
  · exact calm_moveTo c s b
  · exact calm_revertParked _ c s b

theorem below_dequeue (group : List Nat) (s : State) : Below s (dequeue group s) :=
  below_setQueue fun h => List.Pairwise.filter _ h

/-- The order of keys (06 R92). -/
theorem Key.above_iff (y x : Key) : y.above x = true ↔ y.urgency > x.urgency ∨ y.urgency = x.urgency ∧
    (y.rank > x.rank ∨ y.rank = x.rank ∧ (y.priority > x.priority ∨ y.priority = x.priority ∧ y.id < x.id)) := by
  unfold Key.above
  split <;> (try split) <;> (try split) <;> simp only [decide_eq_true_eq] <;> omega

theorem Key.above_asymm {y x : Key} (h : y.above x = true) : x.above y = false := by
  rw [← Bool.not_eq_true, Key.above_iff]
  rw [Key.above_iff] at h
  omega

/-- A key below another that is not above a third is not above the third. -/
theorem Key.not_above_trans {x y z : Key} (h : y.above x = false) (k : x.above z = false) : y.above z = false := by
  rw [← Bool.not_eq_true, Key.above_iff] at h k ⊢
  omega

/-- An entry joins an ordered queue at the place its key gives (06 R92). -/
theorem insertEntry_ordered (e : QueueEntry) {q : List QueueEntry}
    (h : q.Pairwise fun front back => back.key.above front.key = false) :
    (insertEntry e q).Pairwise fun front back => back.key.above front.key = false := by
  induction q with
  | nil => simp [insertEntry]
  | cons x rest ih =>
    rw [List.pairwise_cons] at h
    have ih := ih h.2
    cases c : x.key.above e.key with
    | true =>
      have step : insertEntry e (x :: rest) = x :: insertEntry e rest := by simp [insertEntry, c]
      rw [step, List.pairwise_cons]
      refine ⟨fun y hy => ?_, ih⟩
      have : y = e ∨ y ∈ rest := by
        simp only [insertEntry, List.mem_append, List.mem_cons] at hy
        rcases hy with m | m | m
        · exact .inr (List.takeWhile_subset _ m)
        · exact .inl m
        · exact .inr ((List.dropWhile_sublist _).subset m)
      rcases this with rfl | m
      · exact Key.above_asymm c
      · exact h.1 y m
    | false =>
      have step : insertEntry e (x :: rest) = e :: x :: rest := by simp [insertEntry, c]
      rw [step, List.pairwise_cons, List.pairwise_cons]
      refine ⟨fun y hy => ?_, h⟩
      rcases List.mem_cons.1 hy with rfl | m
      · exact c
      · exact Key.not_above_trans (h.1 y m) c

theorem below_enqueue (group : List Nat) (urgency : Nat) (s : State) : Below s (enqueue group urgency s) :=
  below_setQueue fun h => insertEntry_ordered _ (List.Pairwise.filter _ h)

theorem calm_withdrawManual (c : Circuit) (s : State) (b : Backed s c) : Calm s (withdrawManual c s) := by
  unfold withdrawManual
  split
  · refine Calm.trans (calm_putCircuit ?_) (below_post _ _).calm
    exact b.update
  · exact .refl s

theorem calm_strand (group : List Nat) (reason : Reason) (s : State) : Calm s (strand group reason s) := by
  simp only [strand]
  have stranded : Calm s (onEach group
      (moveTo .stranded reason fun c => { c with claimTimeout := none, detour := none })
      (dequeue group s)) :=
    (below_dequeue group s).calm.trans (calm_onEach (fun c s b => calm_moveTo c s b) _ _)
  split
  · exact (stranded.trans (calm_onEach calm_withdrawManual _ _)).trans
      (calm_onEach calm_goHome _ _)
  · exact stranded

theorem calm_enterQueue (group : List Nat) (urgency : Nat) (reason : Circuit → Reason) (s : State) :
    Calm s (enterQueue group urgency reason s) :=
  (below_enqueue group urgency s).calm.trans (calm_onEach (fun c s b => calm_moveTo c s b) _ _)

theorem calm_queueOrStrand (group : List Nat) (urgency : Nat) (s : State) : Calm s (queueOrStrand group urgency s) := by
  unfold queueOrStrand
  split
  · exact calm_strand _ _ s
  · split
    · exact calm_enterQueue _ _ _ s
    · exact calm_strand _ _ s

theorem calm_startEpisode (group : List Nat) (urgency : Nat) (lost : List (Nat × Nat)) (s : State) :
    Calm s (startEpisode group urgency lost s) :=
  (calm_onEach (fun _ _ b => calm_updateCircuit (b.counted (Nat.zero_le _))) _ s).trans (calm_queueOrStrand _ _ _)

theorem calm_afterLoss (group : List Nat) (lost : List (Nat × Nat)) (s : State) : Calm s (afterLoss group lost s) := by
  unfold afterLoss
  split
  · exact calm_startEpisode _ _ _ s
  · exact calm_onEach calm_goHome _ s

/-! ## Waiting, failure, evaluation -/

theorem calm_restoreCheck (group : List Nat) (s : State) : Calm s (restoreCheck group s) := by
  simp only [restoreCheck]
  split
  · split
    · exact calm_onEach (fun c s b => calm_moveTo c s b (wait := fun _ => rfl)) _ s
    · exact .refl s
  · refine calm_onEach (fun c s b => ?_) _ s
    split
    · exact calm_moveTo c s b
    · exact .refl s

theorem calm_parkDetour (c : Circuit) (s : State) (b : Backed s c) : Calm s (parkDetour c s) :=
  (below_withdrawOf c s).calm.trans
    (calm_updateCircuit (((below_withdrawOf c s).backed b).update))

theorem calm_leaveDetour (group : List Nat) (s : State) : Calm s (leaveDetour group s) := by
  unfold leaveDetour
  split
  · exact calm_onEach calm_revertDetour _ s
  · exact calm_onEach calm_parkDetour _ s

theorem calm_detourFailure (group : List Nat) (s : State) : Calm s (detourFailure group s) := by
  simp only [detourFailure]
  split
  · exact calm_leaveDetour _ s
  · exact (calm_leaveDetour _ s).trans (calm_afterLoss _ _ _)

theorem calm_abandonAttempt (c : Circuit) (s : State) (b : Backed s c) : Calm s (abandonAttempt c s) :=
  (below_withdrawOf c s).calm.trans
    (calm_updateCircuit (((below_withdrawOf c s).backed b).update))

theorem calm_cancel (group : List Nat) (s : State) : Calm s (cancel group s) := by
  unfold cancel
  refine (below_dequeue group s).calm.trans (calm_onEach (fun c s b => ?_) _ _)
  split
  · exact (calm_abandonAttempt c s b).trans (calm_onCircuit calm_goHome _ _)
  · exact calm_goHome c s b

theorem calm_evaluate (group : List Nat) (s : State) : Calm s (evaluate group s) := by
  simp only [evaluate]
  split
  · split
    · exact calm_startEpisode _ _ _ s
    · refine calm_onEach (fun c s b => ?_) _ s
      split
      · exact calm_goHome c s b
      · exact .refl s
  · split
    · split
      · split
        · exact (below_enqueue _ _ s).calm
        · exact calm_strand _ _ s
      · exact calm_cancel _ s
    · split
      · split
        · exact calm_cancel _ s
        · exact .refl s
      · split
        · split
          · exact calm_detourFailure _ s
          · split
            · exact calm_onEach calm_revertDetour _ s
            · exact calm_restoreCheck _ s
        · exact .refl s

theorem calm_evaluateAll (p : Circuit → Bool) (s : State) : Calm s (evaluateAll p s) := by
  refine calm_onEach (fun c s _ => ?_) _ s
  split
  · exact calm_evaluate _ s
  · exact .refl s

/-! ## Outcomes of attempts -/

theorem calm_takeGrant (c : Circuit) (s : State) (b : Backed s c) : Calm s (takeGrant c s) := by
  simp only [takeGrant]
  split
  · exact .refl s
  · rename_i lane _
    have written := (below_dropLane c.workSide c.lane c s).trans (below_addDrop c.detourSide lane c _)
    have turned : ∀ u, Below s u → Calm s
        (moveTo .retuning .none
          (fun c => { c with claimTimeout := none, parked := none, attempt := .open, retuned := false, inEffect := false })
          c (retune c.portNo lane u)) := fun u h =>
      have both := h.trans (below_retune c.portNo lane u)
      both.calm.trans (calm_moveTo c _ (both.backed b))
    refine turned _ ?_
    split
    · split
      · exact written
      · exact written.trans (below_dropLane _ _ _ _)
    · exact written

theorem calm_grantGroup (group : List Nat) (s : State) : Calm s (grantGroup group s) := by
  simp only [grantGroup]
  have granted := calm_onEach calm_takeGrant group s
  split
  · exact granted.trans (calm_detourFailure _ _)
  · exact granted

theorem below_postRefusal (c : Circuit) (s : State) : Below s (postRefusal c s) := by
  unfold postRefusal
  split
  · exact below_post _ s
  · exact .refl s

theorem calm_failAttempt (group : List Nat) (s : State) : Calm s (failAttempt group s) := by
  simp only [failAttempt]
  split
  · exact (calm_onEach (fun c s b => calm_updateCircuit b.update) _ s).trans (calm_strand _ _ _)
  · have retried := calm_onEach (fun c s b => calm_updateCircuit (f := Circuit.retried) (b.counted (Nat.min_le_right _ _))) group s
    split
    · exact (retried.trans (calm_onEach (fun c s b => calm_updateCircuit b.update) _ _)).trans
        (calm_strand _ _ _)
    · exact (retried.trans (calm_enterQueue _ _ _ _)).trans (calm_evaluate _ _)

theorem calm_resolve (group : List Nat) (s : State) : Calm s (resolve group s) := by
  simp only [resolve]
  split
  · exact .refl s
  · split
    · exact calm_grantGroup _ s
    · refine Calm.trans (calm_onEach (fun c s _ => ?_) group s)
        ((calm_onEach (fun c s _ => (below_postRefusal c s).calm) _ _).trans (calm_failAttempt _ _))
      split
      · exact (below_withdrawOf c s).calm
      · exact .refl s

theorem calm_takeOutcome (outcome : Attempt) (c : Circuit) (s : State) (b : Backed s c) :
    Calm s (takeOutcome outcome c s) := by
  refine Calm.trans (calm_putCircuit ?_) (calm_resolve _ _)
  exact b.update

theorem calm_headGranted (id lane tag : Nat) (s : State) : Calm s (headGranted id lane tag s) := by
  refine calm_onCircuit (fun c s b => ?_) id s
  split
  · exact calm_takeOutcome _ c s b
  · exact .refl s

theorem calm_headRefused (id lane tag : Nat) (reason : Reason) (node : Byte) (s : State) :
    Calm s (headRefused id lane tag reason node s) := by
  refine calm_onCircuit (fun c s b => ?_) id s
  split
  · exact calm_takeOutcome _ c s b
  · exact .refl s

theorem calm_loseDetour (lane : Nat) (c : Circuit) (s : State) (b : Backed s c) : Calm s (loseDetour lane c s) :=
  ((calm_updateCircuit b.update).trans (calm_onEach calm_parkDetour _ _)).trans (calm_afterLoss _ _ _)

theorem calm_headLost (id lane tag : Nat) (reason : Reason) (node : Byte) (s : State) :
    Calm s (headLost id lane tag reason node s) := by
  refine calm_onCircuit (fun c s b => ?_) id s
  split
  · split
    · exact calm_loseDetour _ c s b
    · split
      · exact calm_takeOutcome _ c s b
      · exact .refl s
  · exact .refl s

/-! ## Port events and completions -/

theorem calm_headPortFault (c : Circuit) (s : State) (b : Backed s c) : Calm s (headPortFault c s) := by
  simp only [headPortFault]
  split
  · exact (calm_onEach calm_parkDetour _ s).trans (calm_strand _ _ _)
  · split
    · split
      · exact .refl s
      · exact calm_takeOutcome _ c s b
    · exact .refl s
    · exact calm_evaluate _ s

theorem calm_ownerHomed (c : Circuit) (s : State) : Calm s (ownerHomed c s) := by
  simp only [ownerHomed]
  split
  · exact (below_retune _ _ s).calm.trans (calm_evaluate _ _)
  · exact (below_retune _ _ s).calm

theorem calm_ownerFault (c : Circuit) (s : State) (b : Backed s c) : Calm s (ownerFault c s) := by
  unfold ownerFault
  split
  · exact calm_headPortFault c s b
  · exact .refl s

theorem calm_complete (c : Circuit) (s : State) (b : Backed s c) : Calm s (complete c s) := by
  simp only [complete]
  split
  · split
    · exact (calm_moveTo c s b).trans (calm_restoreCheck _ _)
    · exact calm_moveTo c s b
  · split
    · exact (calm_moveTo c s b).trans (calm_evaluate _ _)
    · exact calm_moveTo c s b
  · exact .refl s

theorem calm_noteCompletion {f : Circuit → Circuit} (c : Circuit) (s : State) (b : Backed s (f c)) :
    Calm s (noteCompletion f c s) := by
  simp only [noteCompletion]
  split
  · exact (calm_putCircuit b).trans (calm_complete _ _ b.put)
  · exact calm_putCircuit b

theorem calm_ownerRetuned (lane : Nat) (c : Circuit) (s : State) (b : Backed s c) : Calm s (ownerRetuned lane c s) := by
  unfold ownerRetuned
  split
  · exact calm_noteCompletion c s b.update
  · exact .refl s

theorem calm_settingInEffect (side : Side) (lane : Nat) (c : Circuit) (s : State) (b : Backed s c) :
    Calm s (settingInEffect side lane c s) := by
  unfold settingInEffect
  split
  · exact calm_noteCompletion c s b.update
  · exact .refl s

/-! ## The tail -/

theorem calm_tailMove (lane tag head : Nat) (written : State) (c : Circuit) (b : Backed written c) :
    Calm written (tailMove lane tag head written c) :=
  have turned := (below_addDrop c.detourSide lane c written).trans (below_retune c.portNo lane _)
  turned.calm.trans (calm_moveTo c _ (turned.backed b))

theorem calm_tailGranted (id lane tag head : Nat) (s : State) : Calm s (tailGranted id lane tag head s) := by
  refine calm_onCircuit (fun c s b => ?_) id s
  split
  · split
    · split
      · exact calm_updateCircuit b.update
      · exact (below_dropLane _ _ _ s).calm.trans (calm_tailMove _ _ _ _ c ((below_dropLane _ _ _ s).backed b))
    · exact (below_dropLane _ _ _ s).calm.trans (calm_tailMove _ _ _ _ c ((below_dropLane _ _ _ s).backed b))
  · exact .refl s

theorem calm_tailRevert (c : Circuit) (s : State) (b : Backed s c) : Calm s (tailRevert c s) := by
  unfold tailRevert
  split
  · exact (below_turnHome _ c s).calm.trans (calm_moveTo c _ ((below_turnHome _ c s).backed b))
  · exact .refl s

theorem calm_tailReleased (id lane tag : Nat) (s : State) : Calm s (tailReleased id lane tag s) := by
  refine calm_onCircuit (fun c s b => ?_) id s
  split
  · exact calm_tailRevert c s b
  · exact .refl s

/-! ## Changes from the Ring View, deadlines, requests -/

theorem calm_afterEnd (group : List Nat) (s : State) : Calm s (afterEnd group s) := by
  unfold afterEnd
  split
  · exact calm_queueOrStrand _ _ s
  · exact calm_onEach calm_goHome _ s

theorem calm_takeRestarts (h : CclHand) (c : Circuit) (s : State) (b : Backed s c) : Calm s (takeRestarts h c s) := by
  unfold takeRestarts
  split
  · split
    · exact calm_leaveDetour _ s
    · split
      · exact calm_onEach calm_abandonAttempt _ s
      · exact .refl s
  · split
    · exact calm_tailRevert c s b
    · exact .refl s

theorem calm_evaluateHand (h : CclHand) (c : Circuit) (s : State) : Calm s (evaluateHand h c s) := by
  simp only [evaluateHand]
  split
  · split
    · split
      · exact .refl s
      · exact calm_afterLoss _ _ s
    · split
      · exact calm_afterEnd _ s
      · split
        · exact calm_evaluate _ s
        · exact .refl s
  · exact .refl s

theorem calm_takeHand (h : CclHand) (s : State) : Calm s (takeHand h s) :=
  (calm_onEach (calm_takeRestarts h) _ s).trans (calm_onEach (fun c t _ => calm_evaluateHand h c t) _ _)

theorem calm_claimTimedOut (c : Circuit) (s : State) (b : Backed s c) : Calm s (claimTimedOut c s) :=
  calm_takeOutcome _ c s b

theorem calm_storeRequest (r : Request) (c : Circuit) (s : State) (b : Backed s c) : Calm s (storeRequest r c s) := by
  refine Calm.trans (calm_putCircuit ?_) (calm_evaluate _ _)
  exact b.update

theorem calm_requestPin (c : Circuit) (s : State) (b : Backed s c) : Calm s (requestPin c s).2 := by
  unfold requestPin
  split
  · exact calm_storeRequest _ c s b
  · exact .refl s

theorem calm_requestClear (c : Circuit) (s : State) (b : Backed s c) : Calm s (requestClear c s).2 := by
  unfold requestClear
  split
  · exact .refl s
  · show Calm s (if c.request = .none then s else storeRequest .none c s)
    split
    · exact .refl s
    · exact calm_storeRequest _ c s b

theorem calm_requestDetour (r : Request) (c : Circuit) (s : State) (b : Backed s c) :
    Calm s (requestDetour r c s).2 := by
  unfold requestDetour
  split
  · exact .refl s
  · split
    · exact .refl s
    · exact calm_storeRequest _ c s b

theorem calm_requestReturn (c : Circuit) (s : State) : Calm s (requestReturn c s).2 := by
  unfold requestReturn
  split
  · exact .refl s
  · split
    · exact .refl s
    · split
      · exact .refl s
      · exact (calm_onEach (fun c s b => calm_updateCircuit (f := Circuit.unforced) (b.update)) _ s).trans
          (calm_onEach calm_revertDetour _ _)

theorem calm_bringBack (c : Circuit) (s : State) (b : Backed s c) : Calm s (bringBack c s) := by
  unfold bringBack
  split
  · exact calm_revertDetour c s b
  · split
    · exact calm_goHome c s b
    · exact calm_goHome c s b
    · exact (calm_abandonAttempt c s b).trans (calm_onCircuit calm_goHome _ _)
    · exact .refl s

theorem calm_loweredToNone (c : Circuit) (s : State) (b : Backed s c) : Calm s (loweredToNone c s) := by
  simp only [loweredToNone]
  have cleared : Calm s (putCircuit c.unforced s) := calm_putCircuit b.update
  split
  · exact cleared.trans (calm_evaluate _ _)
  · exact ((cleared.trans (below_dequeue _ _).calm).trans (calm_onEach calm_bringBack _ _)).trans (calm_evaluate _ _)

theorem calm_classLowered (c : Circuit) (s : State) (b : Backed s c) : Calm s (classLowered c s) := by
  unfold classLowered
  split
  · exact calm_loweredToNone c s b
  · split
    · exact calm_evaluate _ s
    · exact .refl s

end Sys2Proof.Machine
end

