-- ==== Sys2Proof/Laws/Claims.lean ====
section
/-! SUPPORT. The Detour Claim Engine (08), the claim queue's service (06 R93) and the reports inside a step: each operation is
quiet, none but an attempt's start takes a window slot, and a start never takes the slots in use above 8. -/

namespace Sys2Proof.Machine

theorem calm_bump (lane : Nat) (x : Claim) (s : State) : Calm s (bump lane x s) := by
  simp only [bump]
  have freed := (below_freeAttempt lane x.id x.head x.tag s).calm
  have told : ∀ u, Calm s u → Calm s
      (if x.tail = s.node then tailReleased x.id lane x.tag u else sendRelease (x.attempted lane) u) := by
    intro u h
    split
    · exact h.trans (calm_tailReleased _ _ _ _)
    · exact h.trans (below_sendRelease _ _).calm
  refine told _ ?_
  split
  · split
    · exact freed.trans (calm_headLost _ _ _ _ _ _)
    · exact freed.trans (calm_headRefused _ _ _ _ _ _)
  · exact freed.trans (below_sendRefusal _ _ _ _).calm

theorem calm_clearFor (side : Side) (lane : Nat) (y : Claim) (s : State) : Calm s (clearFor side lane y s) := by
  unfold clearFor
  split
  · split
    · split
      · exact (below_laneUndo _ _ _ _ s).calm
      · exact .refl s
    · exact calm_bump _ _ s
  · split
    · exact .refl s
    · exact calm_bump _ _ s
  · exact .refl s

theorem calm_headClaim (lane : Nat) (key : Key) (c : Circuit) (s : State) : Calm s (headClaim lane key c s) := by
  simp only [headClaim]
  split
  · exact calm_headRefused _ _ _ _ _ s
  · exact calm_headRefused _ _ _ _ _ s
  · split
    · have marked := fun e => (calm_clearFor (c.attempted lane).dir lane ((c.attempted lane).claim key) s).trans
        (below_setLane (c.attempted lane).dir lane e _).calm
      split
      · rename_i sent
        exact (marked _).trans (below_offerClaim sent).calm
      · exact ((marked _).trans (below_freeLane _ _ _).calm).trans (calm_headRefused _ _ _ _ _ _)
    · exact calm_headRefused _ _ _ _ _ s

theorem calm_grantAtHead (m : Attempted) (s : State) : Calm s (grantAtHead m s) := by
  unfold grantAtHead
  split
  · split
    · exact (below_setLane _ _ _ s).calm.trans (calm_headGranted _ _ _ _)
    · exact (below_sendRelease m s).calm
  · split
    · exact .refl s
    · exact (below_sendRelease m s).calm
  · exact (below_sendRelease m s).calm

theorem calm_refusalAtHead (m : Attempted) (reason : Reason) (node : Byte) (s : State) :
    Calm s (refusalAtHead m reason node s) := by
  unfold refusalAtHead
  split
  · split
    · exact (below_freeLane _ _ s).calm.trans (calm_headRefused _ _ _ _ _ _)
    · exact .refl s
  · split
    · exact (below_freeLane _ _ s).calm.trans (calm_headLost _ _ _ _ _ _)
    · exact .refl s
  · exact .refl s

theorem calm_reserve (arrival : Side) (m : Attempted) (key : Key) (hops : Nat) (f : Frame) (s : State) :
    Calm s (reserve arrival m key hops f s) := by
  simp only [reserve]
  have marked := fun e => (((calm_clearFor arrival m.lane (m.claim key) s).trans
    (calm_clearFor m.dir m.lane (m.claim key) _)).trans (below_setLane arrival m.lane e _).calm).trans
      (below_setLane m.dir m.lane e _).calm
  split
  · rename_i sent
    exact (marked _).trans (below_offerClaim sent).calm
  · exact ((marked _).trans (below_freeAttempt _ _ _ _ _).calm).trans (below_sendRefusal _ _ _ _).calm

theorem calm_claimAtTransit (arrival : Side) (m : Attempted) (key : Key) (hops : Nat) (f : Frame) (s : State) :
    Calm s (claimAtTransit arrival m key hops f s) := by
  unfold claimAtTransit
  split
  · exact (below_sendRefusal _ _ _ s).calm
  · exact calm_reserve _ _ _ _ _ s

theorem below_grantAtTransit (m : Attempted) (hops : Nat) (f : Frame) (s : State) :
    Below s (grantAtTransit m hops f s) := by
  simp only [grantAtTransit]
  split
  · exact .refl s
  · split
    · rename_i e w _ _
      have held := ((below_setLane .east m.lane (.held e) s).trans (below_setLane .west m.lane (.held w) _)).trans
        (below_lanePass m.lane _)
      split
      · rename_i sent
        exact held.trans (below_offerClaim sent)
      · exact (held.trans (below_freeAttempt _ _ _ _ _)).trans (below_sendRelease _ _)
    · exact .refl s

theorem below_forward (side : Side) (hops : Nat) (f : Frame) (s : State) : Below s (forward side hops f s) := by
  unfold forward
  split
  · exact .refl s
  · exact below_offerOrDrop _ _ s

theorem below_refusalAtTransit (m : Attempted) (hops : Nat) (f : Frame) (s : State) :
    Below s (refusalAtTransit m hops f s) :=
  (below_freeAttempt _ _ _ _ s).trans (below_forward _ _ _ _)

theorem below_releaseAtTransit (m : Attempted) (hops : Nat) (f : Frame) (s : State) :
    Below s (releaseAtTransit m hops f s) :=
  (below_freeAttempt _ _ _ _ s).trans (below_forward _ _ _ _)

theorem below_freeEarlier (m : Attempted) (s : State) : Below s (freeEarlier m s) := by
  refine Below.foldl (fun s p => ?_) s _
  split
  · exact below_freeLane _ _ s
  · exact .refl s

theorem calm_releaseAtTail (m : Attempted) (s : State) : Calm s (releaseAtTail m s) :=
  (below_freeAttempt _ _ _ _ s).calm.trans (calm_tailReleased _ _ _ _)

theorem calm_claimAtTail (arrival : Side) (m : Attempted) (key : Key) (s : State) :
    Calm s (claimAtTail arrival m key s) := by
  simp only [claimAtTail]
  split
  · exact (below_sendRefusal _ _ _ s).calm
  · have granted := (((below_freeEarlier m s).calm.trans (calm_clearFor arrival m.lane (m.claim key) _)).trans
      (below_setLane arrival m.lane (.held (m.claim key)) _).calm).trans (calm_tailGranted m.id m.lane m.tag m.head _)
    split
    · rename_i sent
      exact granted.trans (below_offerClaim sent).calm
    · exact granted.trans (calm_releaseAtTail _ _)

theorem calm_takeClaim (arrival : Side) (f : Frame) (s : State) : Calm s (takeClaim arrival f s) := by
  unfold takeClaim
  split
  · exact .refl s
  · split
    · exact .refl s
    · split
      · exact (below_sendRefusal _ _ _ s).calm
      · split
        · exact .refl s
        · split
          · exact calm_claimAtTail _ _ _ s
          · exact calm_claimAtTransit _ _ _ _ _ s

theorem calm_takeGrantFrame (f : Frame) (s : State) : Calm s (takeGrantFrame f s) := by
  unfold takeGrantFrame
  split
  · exact .refl s
  · split
    · exact .refl s
    · split
      · exact .refl s
      · split
        · exact calm_grantAtHead _ s
        · exact (below_grantAtTransit _ _ _ s).calm

theorem calm_takeRefusal (arrival : Side) (f : Frame) (s : State) : Calm s (takeRefusal arrival f s) := by
  unfold takeRefusal
  split
  · split
    · exact .refl s
    · split
      · exact (below_forward _ _ _ s).calm
      · split
        · exact calm_refusalAtHead _ _ _ s
        · exact (below_refusalAtTransit _ _ _ s).calm
  · exact .refl s

theorem calm_takeRelease (arrival : Side) (f : Frame) (s : State) : Calm s (takeRelease arrival f s) := by
  unfold takeRelease
  split
  · exact .refl s
  · split
    · exact .refl s
    · split
      · exact (below_forward _ _ _ s).calm
      · split
        · exact calm_releaseAtTail _ s
        · exact (below_releaseAtTransit _ _ _ s).calm

theorem calm_pendingExpired (lane : Nat) (c : Claim) (s : State) : Calm s (pendingExpired lane c s) := by
  simp only [pendingExpired]
  split
  · exact (below_freeAttempt _ _ _ _ s).calm.trans (calm_headRefused _ _ _ _ _ _)
  · exact (below_freeAttempt _ _ _ _ s).calm

theorem below_freeWhere (p : State → Claim → Bool) (s : State) : Below s (freeWhere p s) := by
  refine Below.foldl (fun s place => ?_) s _
  split
  · split
    · exact below_freeAttempt _ _ _ _ s
    · exact .refl s
  · exact .refl s

theorem below_cleanSpan (span : Nat) (s : State) : Below s (cleanSpan span s) := below_freeWhere _ s

theorem below_cleanHead (node : Nat) (s : State) : Below s (cleanHead node s) := below_freeWhere _ s

theorem below_lockSpan (span : Nat) (locked : Bool) (s : State) : Below s (lockSpan span locked s) := by
  have one : ∀ (side : Side) (u : State), Below u (if u.ident.isSome && u.sideSpan side = span then
      u.setLanes side ((u.lanes.get side).map (LaneEntry.afterLock locked)) else u) := by
    intro side u
    split
    · exact below_setLanes (List.length_map _)
    · exact .refl u
  exact (one .east s).trans (one .west _)

/-! ## Service of the claim queue (06 R93, R94) -/

/-- Orderly, and at most `n` slots more in use than before while the ids are distinct. -/
structure Starting (n : Nat) (s t : State) : Prop extends Orderly s t where
  slots : (s.circuits.map (·.id)).Nodup → slotsUsed t ≤ slotsUsed s + n

theorem Starting.trans {m n : Nat} {s t u : State} (h : Starting m s t) (k : Starting n t u) : Starting (m + n) s u := by
  refine ⟨h.toOrderly.trans k.toOrderly, fun d => ?_⟩
  have a := h.slots d
  have b := k.slots (h.quiet.ids ▸ d)
  omega

theorem Calm.starting {s t : State} (h : Calm s t) (n : Nat) : Starting n s t :=
  ⟨h.toOrderly, fun d => Nat.le_trans (h.slots d) (Nat.le_add_right _ _)⟩

/-- A record put in CLAIMING raises the slots in use by one at most. -/
theorem moveTo_starting {new : CircuitState} {reason : Reason} {f : Circuit → Circuit} (c : Circuit) (s : State)
    (b : Backed s c) (count : (f c).count = c.count := by rfl)
    (wait : new = .waitRestore → (f c).waitToRestore.isSome = true := by simp) :
    Starting 1 s (moveTo new reason f c s) := by
  have put : ∀ r, Starting 1 s (putCircuit
      { f c with
        state := new, reason := r, waitToRestore := if new = .waitRestore then (f c).waitToRestore else none } s) :=
    fun r => ⟨orderly_putCircuit fun l => lawful_moved (b.lawful l) count wait, fun d => slots_putCircuit _ s d⟩
  simp only [moveTo]
  split
  · exact put _
  · exact (put _).trans ((below_post _ _).calm.starting 0)

theorem startMember_starting (urgency lane : Nat) (c : Circuit) (s : State) (b : Backed s c) :
    Starting 1 s (startMember urgency lane c s) :=
  (moveTo_starting c s b).trans
    ((calm_onCircuit (act := fun c => headClaim lane (circuitKey urgency c) c)
      (fun c s _ => calm_headClaim lane (circuitKey urgency c) c s) c.id _).starting 0)

theorem onMember_starting (urgency : Nat) (p : Nat × Nat) (s : State) :
    Starting 1 s (onCircuit p.1 (startMember urgency p.2) s) := by
  unfold onCircuit
  split
  · rename_i c found
    exact startMember_starting urgency p.2 _ s (.of_mem (findCircuit_mem found).1)
  · exact (Calm.refl s).starting 1

theorem startMembers_starting (urgency : Nat) (lanes : List (Nat × Nat)) (s : State) :
    Starting lanes.length s (lanes.foldl (fun t (p : Nat × Nat) => onCircuit p.1 (startMember urgency p.2) t) s) := by
  induction lanes generalizing s with
  | nil => exact (Calm.refl s).starting 0
  | cons p rest ih =>
    rw [List.length_cons, Nat.add_comm]
    exact (onMember_starting urgency p s).trans (ih _)

theorem assignLanes_length {s : State} {urgency : Nat} {cs : List Circuit} {taken : List Nat} {lanes : List (Nat × Nat)}
    (h : assignLanes s urgency cs taken = some lanes) : lanes.length = cs.length := by
  induction cs generalizing taken lanes with
  | nil => simp only [assignLanes, Option.some.injEq] at h; simp [← h]
  | cons c rest ih =>
    simp only [assignLanes] at h
    split at h
    · cases h
    · rename_i lane _
      cases hr : assignLanes s urgency rest (lane :: taken) with
      | none => simp [hr] at h
      | some more =>
        simp only [hr, Option.map_some, Option.some.injEq] at h
        simp [← h, ih hr]

theorem members_length (s : State) (ids : List Nat) : (members s ids).length ≤ ids.length :=
  List.length_filterMap_le _ _

/-- A feasible answer holds no more lanes than the group has members. -/
theorem ask_length {s : State} {group : List Nat} {urgency : Nat} {lanes : List (Nat × Nat)}
    (h : ask s group urgency = .feasible lanes) : lanes.length ≤ group.length := by
  simp only [ask] at h
  split at h
  · cases h
  · split at h
    · rename_i given
      cases h
      rw [assignLanes_length given]
      exact members_length s group
    · cases h

/-- 06 R93: a start leaves at most the slots in use and one for each member of its group. -/
theorem startAttempt_starting (group : List Nat) (urgency : Nat) (s : State) :
    Starting group.length s (startAttempt group urgency s) := by
  unfold startAttempt
  split
  · exact (calm_strand _ _ s).starting _
  · rename_i lanes given
    have more := ((below_dequeue group s).calm.starting 0).trans (startMembers_starting urgency lanes (dequeue group s))
    refine ⟨more.toOrderly, fun d => Nat.le_trans (more.slots d) ?_⟩
    have := ask_length given
    omega

/-- An orderly operation that keeps the claim window: 8 slots at most before, 8 at most after. -/
structure Windowed (s t : State) : Prop extends Orderly s t where
  window : (s.circuits.map (·.id)).Nodup → slotsUsed s ≤ Config.window → slotsUsed t ≤ Config.window

theorem Windowed.refl (s : State) : Windowed s s := ⟨.refl s, fun _ h => h⟩

theorem Windowed.trans {s t u : State} (h : Windowed s t) (k : Windowed t u) : Windowed s u :=
  ⟨h.toOrderly.trans k.toOrderly, fun d w => k.window (h.quiet.ids ▸ d) (h.window d w)⟩

theorem Calm.windowed {s t : State} (h : Calm s t) : Windowed s t :=
  ⟨h.toOrderly, fun d w => Nat.le_trans (h.slots d) w⟩

theorem Below.windowed {s t : State} (h : Below s t) : Windowed s t := h.calm.windowed

theorem windowed_serveOnce {s t : State} (h : serveOnce s = some t) : Windowed s t := by
  unfold serveOnce at h
  split at h
  · cases h
  · rename_i e rest queued
    split at h
    · cases h
      refine (below_setQueue fun l => ?_).windowed
      unfold queueLawful at l
      rw [queued] at l
      exact l.tail
    · rename_i c _
      simp only at h
      split at h
      · rename_i room
        cases h
        have step := startAttempt_starting (groupOf s c) e.key.urgency s
        exact ⟨step.toOrderly, fun d _ => Nat.le_trans (step.slots d) room⟩
      · cases h

theorem calm_onOwner {act : Circuit → State → State} (h : ∀ c s, Backed s c → Calm s (act c s)) (port : Nat) (s : State) :
    Calm s (onOwner port act s) := by
  unfold onOwner
  split
  · exact calm_onCircuit h _ s
  · exact .refl s

theorem calm_takeWork (w : Work) (s : State) : Calm s (takeWork w s) := by
  unfold takeWork
  split
  · exact calm_onOwner (fun c s b => calm_ownerRetuned _ c s b) _ s
  · exact calm_onOwner calm_ownerFault _ s
  · exact calm_onOwner (fun c s _ => calm_ownerHomed c s) _ s
  · split
    · exact (below_portFault _ s).calm
    · exact .refl s
  · split
    · rename_i homing
      exact (below_homed homing).calm
    · exact .refl s
  · exact calm_onCircuit (fun c s b => calm_settingInEffect _ _ c s b) _ s

theorem windowed_settleOnce {s t : State} (h : settleOnce s = some t) : Windowed s t := by
  unfold settleOnce at h
  split at h
  · cases h
    exact (below_setWork _ s).windowed.trans (calm_takeWork _ _).windowed
  · exact windowed_serveOnce h

theorem windowed_settleFor (n : Nat) (s : State) : Windowed s (settleFor n s) := by
  induction n generalizing s with
  | zero => exact .refl s
  | succ n ih =>
    unfold settleFor
    split
    · exact .refl s
    · rename_i next
      exact (windowed_settleOnce next).trans (ih _)

/-- The end of an event (06 R90, R93): everything the taking of reports and the service of the queue can do. -/
theorem windowed_settle (s : State) : Windowed s (settle s) := windowed_settleFor _ s

theorem calm_settingSettled (side : Side) (lane : Nat) (s : State) : Calm s (settingSettled side lane s) :=
  (below_setLsd _ s).calm.trans (calm_onEach (fun c s b => calm_settingInEffect side lane c s b) _ _)

end Sys2Proof.Machine
end

