-- ==== Sys2Proof/Laws/Tame.lean ====
section
/-! SUPPORT. What a command may do: `Tame` for every command but a reset, a tick, a load and the plan commands. The blocks at
the spans: Notice Relay and Ring View (05), Span Monitors (03), Span Links (04). -/

namespace Sys2Proof.Machine

/-- The waiting commands, the reset line with a power-on reset due at its release, the clock and the Plan Loader's state stay, and the laws are kept. -/
structure Tame (s t : State) : Prop where
  pending : t.pending = s.pending
  rstnLow : t.rstnLow = s.rstnLow
  powerOnDue : t.powerOnDue = s.powerOnDue
  clock : t.clock = s.clock
  pld : t.pld = s.pld
  lawful : Lawful s → Lawful t

theorem Tame.refl (s : State) : Tame s s := ⟨rfl, rfl, rfl, rfl, rfl, id⟩

theorem Tame.trans {s t u : State} (h : Tame s t) (k : Tame t u) : Tame s u :=
  ⟨k.pending.trans h.pending, k.rstnLow.trans h.rstnLow, k.powerOnDue.trans h.powerOnDue, k.clock.trans h.clock, k.pld.trans h.pld,
    fun l => k.lawful (h.lawful l)⟩

theorem Tame.ite {s t u : State} {p : Prop} [Decidable p] (h : Tame s t) (k : Tame s u) : Tame s (if p then t else u) := by
  split
  · exact h
  · exact k

/-- A guarded action. -/
theorem Tame.guard {s t : State} {p : Prop} [Decidable p] (h : Tame s t) : Tame s (if p then t else s) :=
  Tame.ite h (.refl s)

theorem Windowed.tame {s t : State} (h : Windowed s t) : Tame s t := by
  have q := h.quiet
  refine ⟨q.pending, q.rstnLow, q.powerOnDue, q.clock, q.pld, fun l => ?_⟩
  refine ⟨q.clock ▸ q.events.lawful l.events, ?_, fun side => (q.links side).lawful (l.links side),
    ⟨q.ids ▸ l.window.1, h.window l.window.1 l.window.2⟩, ?_, h.records l.circuits, h.ports l.ports, fun side => ?_, h.order l.queue⟩
  · unfold clockLawful; rw [q.clock]; exact l.clock
  · unfold resetLawful; rw [q.powerOnDue, q.rstnLow]; exact l.reset
  · rw [h.extent, q.pld]; exact l.map side

theorem Calm.tame {s t : State} (h : Calm s t) : Tame s t := h.windowed.tame

theorem Below.tame {s t : State} (h : Below s t) : Tame s t := h.calm.tame

theorem tame_setMon (side : Side) (m : Monitor) (s : State) : Tame s (s.setMon side m) :=
  ⟨rfl, rfl, rfl, rfl, rfl, fun l => ⟨l.events, l.clock, l.links, l.window, l.reset, l.circuits, l.ports, l.map, l.queue⟩⟩

theorem tame_setNrv (n : Nrv) (s : State) : Tame s (s.setNrv n) :=
  ⟨rfl, rfl, rfl, rfl, rfl, fun l => ⟨l.events, l.clock, l.links, l.window, l.reset, l.circuits, l.ports, l.map, l.queue⟩⟩

theorem tame_setToCcl (h : List CclHand) (s : State) : Tame s (s.setToCcl h) :=
  ⟨rfl, rfl, rfl, rfl, rfl, fun l => ⟨l.events, l.clock, l.links, l.window, l.reset, l.circuits, l.ports, l.map, l.queue⟩⟩

theorem tame_setToDce (h : List DceHand) (s : State) : Tame s (s.setToDce h) :=
  ⟨rfl, rfl, rfl, rfl, rfl, fun l => ⟨l.events, l.clock, l.links, l.window, l.reset, l.circuits, l.ports, l.map, l.queue⟩⟩

/-- The Management Port's own registers change, and its event queue by posts or by removal of the oldest. -/
theorem tame_setMgp {m : Mgp} {s : State} (h : EventsLawful s.clock s.mgp.events → EventsLawful s.clock m.events) : Tame s (s.setMgp m) :=
  ⟨rfl, rfl, rfl, rfl, rfl, fun l => ⟨h l.events, l.clock, l.links, l.window, l.reset, l.circuits, l.ports, l.map, l.queue⟩⟩

theorem tame_setLink {side : Side} {k : Link} {s : State} (h : (s.linkAt side).Lawful → k.Lawful) :
    Tame s (s.setLink side k) := by
  refine ⟨rfl, rfl, rfl, rfl, rfl, fun l => ⟨l.events, l.clock, fun x => ?_, l.window, l.reset, l.circuits, l.ports, l.map, l.queue⟩⟩
  rw [State.setLink_linkAt]
  split
  · exact h (l.links side)
  · exact l.links x

theorem tame_post (body : EventBody) (s : State) : Tame s (post body s) := (below_post body s).tame

/-! ## Notice Relay and Ring View (05) -/

theorem tame_offerNotice (side : Side) (urgent : Bool) (f : Frame) (s : State) : Tame s (offerNotice side urgent f s) :=
  (below_offerNotice side urgent f s).tame

theorem tame_originate (side : Side) (urgent : Bool) (s : State) : Tame s (originate side urgent s) := by
  simp only [originate]
  split
  · exact ((tame_setNrv _ s).trans (tame_offerNotice _ _ _ _)).trans (tame_offerNotice _ _ _ _)
  · exact .refl s

theorem tame_recompute (spans : List Nat) (s : State) : Tame s (recompute spans s) := tame_setNrv _ s

theorem tame_handChanges (spans : List Nat) (restart : Option Nat) (before s : State) :
    Tame s (handChanges spans restart before s) :=
  (tame_setToCcl _ s).trans (tame_setToDce _ _)

theorem tame_takeOwn (side : Side) (condition : Condition) (linkUp locked : Bool) (s : State) :
    Tame s (takeOwn side condition linkUp locked s) := by
  simp only [takeOwn]
  split
  · exact .refl s
  · split
    · exact .refl s
    · split
      · exact tame_setNrv _ s
      · exact (((tame_setNrv _ s).trans (tame_recompute _ _)).trans (tame_originate _ _ _)).trans
          (tame_handChanges _ _ _ _)

theorem tame_monitorReport (side : Side) (condition : Condition) (locked : Bool) (s : State) :
    Tame s (monitorReport side condition locked s) := by
  unfold monitorReport
  split
  · exact .refl s
  · exact tame_takeOwn _ _ _ _ s

theorem tame_linkStatus (side : Side) (linkUp : Bool) (s : State) : Tame s (linkStatus side linkUp s) := by
  unfold linkStatus
  split
  · exact .refl s
  · exact tame_takeOwn _ _ _ _ s

theorem tame_linkReportsUp (side : Side) (s : State) : Tame s (linkReportsUp side s) := by
  simp only [linkReportsUp]
  split
  · exact tame_linkStatus _ _ s
  · split
    · exact tame_linkStatus _ _ s
    · have both := fun f => (((tame_setNrv { s.nrv with restartSent := s.nrv.restartSent.set side true } s).trans
        (tame_offerNotice side true f _)).trans (tame_linkStatus side true _)).trans (tame_originate side.other true _)
      split
      · exact (both _).trans (tame_setToCcl _ _)
      · exact both _

theorem tame_takeFrame {mine : FrameKind → Bool} {kind : FrameKind} {side : Side} {act : Frame → State → State}
    (h : ∀ f s, Tame s (act f s)) (s : State) : Tame s (takeFrame mine kind side act s) := by
  unfold takeFrame
  refine Tame.guard ?_
  split
  · rename_i taken
    exact Tame.guard ((tame_setLink (takeHeld_lawful taken)).trans (h _ _))
  · exact .refl s

theorem tame_relay (arrival : Side) (urgent : Bool) (hops : Nat) (f : Frame) (s : State) :
    Tame s (relay arrival urgent hops f s) := by
  unfold relay
  split
  · exact .refl s
  · exact tame_offerNotice _ _ _ s

theorem tame_setRemote (span : Nat) (theEnd : SpanEnd) (r : Option Report) (s : State) :
    Tame s (setRemote span theEnd r s) := tame_setNrv _ s

theorem tame_setRelay (origin : Nat) (side : Side) (seq : Option Nat) (s : State) : Tame s (setRelay origin side seq s) :=
  tame_setNrv _ s

theorem tame_setGuard (origin : Nat) (arrival : Side) (d : Deadline) (s : State) : Tame s (setGuard origin arrival d s) :=
  tame_setNrv _ s

theorem tame_acceptNotice (i : Ident) (arrival : Side) (n : Notice) (f : Frame) (s : State) :
    Tame s (acceptNotice i arrival n f s) :=
  (((tame_setRemote _ _ _ s).trans (tame_recompute _ _)).trans (tame_handChanges _ _ _ _)).trans (tame_relay _ _ _ _ _)

theorem tame_takeSpanNotice (arrival : Side) (f : Frame) (s : State) : Tame s (takeSpanNotice arrival f s) := by
  unfold takeSpanNotice
  split
  · exact .refl s
  · split
    · simp only [judgeNotice]
      refine Tame.ite (.refl s) ?_
      exact Tame.guard (tame_acceptNotice _ _ _ _ s)
    · unfold relayNotice
      refine Tame.ite (.refl s) ?_
      exact Tame.guard ((tame_setRelay _ _ _ s).trans (tame_relay _ _ _ _ _))

theorem tame_acceptRestart (i : Ident) (arrival : Side) (origin hops : Nat) (f : Frame) (s : State) :
    Tame s (acceptRestart i arrival origin hops f s) := by
  simp only [acceptRestart, endsOf, List.foldl_cons, List.foldl_nil, List.map_cons, List.map_nil]
  exact ((((((((tame_setGuard _ _ _ s).trans (tame_setRemote _ _ _ _)).trans (tame_setRemote _ _ _ _)).trans
    (tame_recompute _ _)).trans (tame_setToDce _ _)).trans (tame_setToCcl _ _)).trans (tame_handChanges _ _ _ _)).trans
    (tame_relay _ _ _ _ _)).trans (tame_post _ _)

theorem tame_takeRestartNotice (arrival : Side) (f : Frame) (s : State) : Tame s (takeRestartNotice arrival f s) := by
  simp only [takeRestartNotice]
  split
  · refine Tame.ite (.refl s) (Tame.ite (.refl s) ?_)
    exact tame_acceptRestart _ _ _ _ _ s
  · refine Tame.ite (.refl s) ?_
    exact (((tame_setRelay _ _ _ s).trans (tame_setRelay _ _ _ _)).trans (tame_relay _ _ _ _ _)).trans (tame_post _ _)

theorem tame_staleReport (span : Nat) (theEnd : SpanEnd) (r : Report) (s : State) : Tame s (staleReport span theEnd r s) :=
  ((tame_setRemote _ _ _ s).trans (tame_recompute _ _)).trans (tame_handChanges _ _ _ _)

theorem tame_refreshNow (side : Side) (s : State) : Tame s (refreshNow side s) := by
  unfold refreshNow
  exact Tame.guard ((tame_setNrv _ s).trans (tame_originate _ _ _))

theorem tame_nrvStart (s : State) : Tame s (nrvStart s) := by
  simp only [nrvStart]
  split
  · exact tame_setNrv _ s
  · exact tame_setNrv _ s

/-! ## Span Monitors (03) -/

theorem tame_declare (side : Side) (m : Monitor) (s : State) : Tame s (declare side m s) := by
  simp only [declare]
  split
  · exact tame_setMon _ _ s
  · exact ((tame_setMon _ _ s).trans (tame_post _ _)).trans (tame_monitorReport _ _ _ _)

theorem tame_indicate (side : Side) (m : Monitor) (s : State) : Tame s (indicate side m s) := by
  simp only [indicate]
  split
  · exact tame_declare _ _ s
  · exact tame_setMon _ _ s

theorem tame_setForced (side : Side) (set : Bool) (s : State) : Tame s (setForced side set s) := tame_declare _ _ s

theorem tame_setLocked (side : Side) (set : Bool) (s : State) : Tame s (setLocked side set s) := by
  simp only [setLocked]
  split
  · exact .refl s
  · exact (tame_setMon _ _ s).trans (tame_monitorReport _ _ _ _)

theorem tame_monitorStart (side : Side) (s : State) : Tame s (monitorStart side s) := by
  simp only [monitorStart]
  split
  · exact tame_declare _ _ s
  · exact tame_setMon _ _ s

/-! ## Span Links (04) -/

theorem tame_enterUp (side : Side) (s : State) : Tame s (enterUp side s) := by
  simp only [enterUp]
  refine ((tame_setLink fun h => ?_).trans (tame_post _ _)).trans (tame_linkReportsUp _ _)
  exact
    { h with
      onlyUp := fun c => absurd rfl c
      errorRun := ⟨Nat.zero_le _, fun _ => Nat.zero_le _⟩ }

theorem tame_leaveUp (side : Side) (cause : LinkCause) (s : State) : Tame s (leaveUp side cause s) := by
  simp only [leaveUp]
  refine ((tame_setLink fun h => ?_).trans (tame_post _ _)).trans (tame_linkStatus _ _ _)
  exact
    { h with
      holding := Nat.zero_le _
      queue := Nat.zero_le _
      onlyUp := fun _ => ⟨rfl, rfl⟩
      hailCount := Nat.zero_le _
      errorRun := ⟨h.errorRun.1, fun c => LinkState.noConfusion c⟩ }

/-- Leaving UP on a fourth errored frame in a row, counted as it leaves (04 R56). -/
theorem tame_leaveUp_counted (side : Side) (cause : LinkCause) (e : FrameError) (s : State)
    (up : (s.linkAt side).state = .up) :
    Tame s (leaveUp side cause
      (s.setLink side { (s.linkAt side).countError e with errorRun := (s.linkAt side).errorRun + 1 })) := by
  simp only [leaveUp, State.setLink_linkAt_same, State.setLink_setLink]
  refine ((tame_setLink fun h => ?_).trans (tame_post _ _)).trans (tame_linkStatus _ _ _)
  have h' := Link.countError_lawful e h
  exact
    { h' with
      holding := Nat.zero_le _
      queue := Nat.zero_le _
      onlyUp := fun _ => ⟨rfl, rfl⟩
      hailCount := Nat.zero_le _
      errorRun := ⟨Nat.succ_le_succ (h.errorRun.2 up), fun c => LinkState.noConfusion c⟩ }

theorem tame_countReady (side : Side) (s : State) : Tame s (countReady side s) := by
  simp only [countReady]
  have counted : Tame s (s.setLink side
      { s.linkAt side with readyCount := countUp 3 (s.linkAt side).readyCount }) :=
    tame_setLink fun h => { h with readyCount := countUp_le _ _ }
  split
  · exact counted.trans (tame_enterUp _ _)
  · exact counted

theorem tame_takeOther {keep : Link → Link} (side : Side) (rate : Rate) (s : State)
    (lawful : ∀ l, l.Lawful → (keep l).Lawful) : Tame s (takeOther side rate keep s) := by
  simp only [takeOther]
  refine Tame.guard ?_
  split
  · exact (tame_setLink (lawful _)).trans (tame_countReady _ _)
  · exact tame_setLink fun h => Link.heard_lawful s (lawful _ h)
  all_goals exact .refl s

theorem tame_takePace (side : Side) (rate : Rate) (s : State) : Tame s (takePace side rate s) := by
  simp only [takePace]
  split
  · rename_i st
    exact Tame.guard (tame_setLink (Link.enterReadying_lawful s _ _ (by rw [st]; simp)))
  · rename_i st
    exact Tame.guard (tame_setLink (Link.enterReadying_lawful s _ _ (by rw [st]; simp)))
  · exact Tame.guard (tame_setLink fun h => { h with readyCount := Nat.zero_le _ })
  · exact Tame.guard (tame_setLink (Link.heard_lawful s))
  all_goals exact .refl s

theorem tame_takeErrored (side : Side) (e : FrameError) (s : State) : Tame s (takeErrored side e s) := by
  simp only [takeErrored]
  split
  · exact tame_setLink fun h => { Link.countError_lawful e h with readyCount := Nat.zero_le _ }
  · rename_i up
    split
    · exact tame_leaveUp_counted side _ e s up
    · rename_i few
      refine tame_setLink fun h => { Link.countError_lawful e h with errorRun := ⟨?_, fun _ => ?_⟩ }
      · show (s.linkAt side).errorRun + 1 ≤ 4; omega
      · show (s.linkAt side).errorRun + 1 ≤ 3; omega
  all_goals exact .refl s

theorem tame_linkStart (side : Side) (s : State) : Tame s (linkStart side s) := tame_setLink fun h => { h with }

theorem tame_onLinkExpiry {state : LinkState} {deadline : Link → Deadline} {act : Link → State → State} (side : Side)
    (s : State) (h : (s.linkAt side).state = state → Tame s (act (s.linkAt side) s)) :
    Tame s (onLinkExpiry side state deadline act s) := by
  simp only [onLinkExpiry]
  split
  · rename_i c
    simp only [Bool.and_eq_true, decide_eq_true_eq] at c
    exact h c.1.2
  · exact .refl s

end Sys2Proof.Machine
end

