-- ==== Sys2Proof/Laws/Commands.lean ====
section
/-! SUPPORT. One lemma for each command's meaning: the next state it answers, and that this is `Tame`, or for the resets, the
tick, the loads and the plan commands what stands in its place. -/

namespace Sys2Proof.Machine

/-- A meaning answers a next state that is tame. -/
def AnswersTamely (outcome : Host.Outcome State Fault Refusal) (s : State) : Prop := ∃ t, outcome = .next t ∧ Tame s t

/-! ## Span Monitors (03) -/

theorem execLightChange_tame (side : Side) (present : Bool) (s : State) :
    AnswersTamely (execLightChange side present s) s := ⟨_, rfl, tame_indicate _ _ s⟩

theorem execFrameLockChange_tame (side : Side) (locked : Bool) (s : State) :
    AnswersTamely (execFrameLockChange side locked s) s := ⟨_, rfl, tame_indicate _ _ s⟩

theorem execErroredBlockPulse_tame (side : Side) (s : State) : AnswersTamely (execErroredBlockPulse side s) s :=
  ⟨_, rfl, Tame.guard (tame_setMon _ _ s)⟩

theorem execHoldOffExpiry_tame (side : Side) (s : State) : AnswersTamely (execHoldOffExpiry side s) s :=
  ⟨_, rfl, Tame.guard (tame_declare _ _ s)⟩

theorem execClearSoakExpiry_tame (side : Side) (s : State) : AnswersTamely (execClearSoakExpiry side s) s :=
  ⟨_, rfl, Tame.guard (tame_declare _ _ s)⟩

theorem execWindowBoundaryExpiry_tame (side : Side) (s : State) : AnswersTamely (execWindowBoundaryExpiry side s) s :=
  ⟨_, rfl, Tame.guard (tame_declare _ _ s)⟩

/-! ## Span Links (04) -/

theorem execHailSequenceExpiry_tame (side : Side) (s : State) : AnswersTamely (execHailSequenceExpiry side s) s := by
  refine ⟨_, rfl, tame_onLinkExpiry side s fun _ => tame_setLink fun h => ?_⟩
  split
  · exact { h with }
  · exact { h with }

theorem execHailBurstExpiry_tame (side : Side) (s : State) : AnswersTamely (execHailBurstExpiry side s) s :=
  ⟨_, rfl, Tame.guard (tame_setLink (Link.hailOn_lawful s))⟩

theorem execHailAnswerGuardExpiry_tame (side : Side) (s : State) : AnswersTamely (execHailAnswerGuardExpiry side s) s :=
  ⟨_, rfl, Tame.guard (tame_setLink fun h => { h with })⟩

theorem execReceivedBurstStart_tame (side : Side) (s : State) : AnswersTamely (execReceivedBurstStart side s) s :=
  ⟨_, rfl, Tame.guard (tame_setLink (Link.burstStart_lawful s))⟩

theorem execReceivedBurstEnd_tame (side : Side) (s : State) : AnswersTamely (execReceivedBurstEnd side s) s := by
  refine ⟨_, rfl, ?_⟩
  show Tame s (if _ then _ else s)
  split
  · rename_i c
    simp only [Bool.and_eq_true, decide_eq_true_eq] at c
    exact tame_setLink (Link.burstEnd_lawful s side (by rw [c.2]; simp))
  · exact .refl s

theorem execHailGapLimitExpiry_tame (side : Side) (s : State) : AnswersTamely (execHailGapLimitExpiry side s) s :=
  ⟨_, rfl, tame_onLinkExpiry side s fun _ => tame_setLink fun h => { h with hailCount := Nat.zero_le _ }⟩

theorem execRateWindowExpiry_tame (side : Side) (s : State) : AnswersTamely (execRateWindowExpiry side s) s :=
  ⟨_, rfl, tame_onLinkExpiry side s fun st => tame_setLink (Link.stepDown_lawful s (by rw [st]; simp))⟩

theorem execListeningExpiry_tame (side : Side) (s : State) : AnswersTamely (execListeningExpiry side s) s :=
  ⟨_, rfl, tame_onLinkExpiry side s fun st => tame_setLink fun h =>
    Link.enterDown_lawful s (h.onlyUp (by rw [st]; simp)).1 (h.onlyUp (by rw [st]; simp)).2 h⟩

theorem execReadyingExpiry_tame (side : Side) (s : State) : AnswersTamely (execReadyingExpiry side s) s :=
  ⟨_, rfl, tame_onLinkExpiry side s fun st => tame_setLink fun h =>
    Link.enterDown_lawful s (h.onlyUp (by rw [st]; simp)).1 (h.onlyUp (by rw [st]; simp)).2
      { h with holding := Nat.zero_le _ }⟩

theorem execFailedHoldExpiry_tame (side : Side) (s : State) : AnswersTamely (execFailedHoldExpiry side s) s :=
  ⟨_, rfl, tame_onLinkExpiry side s fun st => tame_setLink fun h =>
    Link.enterDown_lawful s (h.onlyUp (by rw [st]; simp)).1 (h.onlyUp (by rw [st]; simp)).2 h⟩

theorem execSilenceExpiry_tame (side : Side) (s : State) : AnswersTamely (execSilenceExpiry side s) s :=
  ⟨_, rfl, tame_onLinkExpiry side s fun _ => tame_leaveUp side _ s⟩

theorem execKeepaliveExpiry_tame (side : Side) (s : State) : AnswersTamely (execKeepaliveExpiry side s) s :=
  ⟨_, rfl, tame_onLinkExpiry side s fun _ => tame_setLink Link.keepAlive_lawful⟩

theorem execLoopReturnExpiry_tame (side : Side) (s : State) : AnswersTamely (execLoopReturnExpiry side s) s := by
  refine ⟨_, rfl, tame_onLinkExpiry side s fun st => ?_⟩
  refine Tame.trans (tame_setLink fun h => ?_) (tame_post _ _)
  exact Link.enterDown_lawful s (h.onlyUp (by rw [st]; simp)).1 (h.onlyUp (by rw [st]; simp)).2 { h with }

theorem execPaceFrameReceived_tame (side : Side) (rate : Rate) (s : State) :
    AnswersTamely (execPaceFrameReceived side rate s) s := ⟨_, rfl, Tame.guard (tame_takePace side rate s)⟩

theorem execReadyFrameReceived_tame (side : Side) (rate : Rate) (s : State) :
    AnswersTamely (execReadyFrameReceived side rate s) s :=
  ⟨_, rfl, Tame.guard (tame_takeOther side rate s fun _ h => h)⟩

theorem execIdleFrameReceived_tame (side : Side) (rate : Rate) (s : State) :
    AnswersTamely (execIdleFrameReceived side rate s) s :=
  ⟨_, rfl, Tame.guard (tame_takeOther side rate s fun _ h => h)⟩

theorem execLoopTestFrameReceived_tame (side : Side) (rate : Rate) (seq : Byte) (s : State) :
    AnswersTamely (execLoopTestFrameReceived side rate seq s) s :=
  ⟨_, rfl, Tame.guard (Tame.ite (Tame.guard (tame_setLink (Link.loopBack_lawful _)))
    (tame_takeOther side rate s fun _ h => h))⟩

theorem execHeldFrameReceived_tame (side : Side) (rate : Rate) (f : Frame) (s : State) :
    AnswersTamely (execHeldFrameReceived side rate f s) s :=
  ⟨_, rfl, Tame.guard (Tame.ite (tame_takeOther side rate s fun _ h => Link.hold_lawful f h)
    (Tame.guard (tame_takeErrored side _ s)))⟩

theorem execErroredFrame_tame (side : Side) (e : FrameError) (s : State) : AnswersTamely (execErroredFrame side e s) s :=
  ⟨_, rfl, Tame.guard (tame_takeErrored side e s)⟩

theorem execFrameSendComplete_tame (side : Side) (s : State) : AnswersTamely (execFrameSendComplete side s) s :=
  ⟨_, rfl, Tame.guard (tame_setLink (Link.sent_lawful s))⟩

/-! ## Notice Relay and Ring View (05) -/

theorem execRefreshExpiry_tame (side : Side) (s : State) : AnswersTamely (execRefreshExpiry side s) s :=
  ⟨_, rfl, Tame.guard (tame_refreshNow side s)⟩

theorem execFreshnessExpiry_tame (span : Nat) (theEnd : SpanEnd) (s : State) :
    AnswersTamely (execFreshnessExpiry span theEnd s) s := by
  refine ⟨_, rfl, ?_⟩
  split
  · exact Tame.guard (tame_staleReport _ _ _ s)
  · exact .refl s

theorem execRestartGuardExpiry_tame (origin : Nat) (side : Side) (s : State) :
    AnswersTamely (execRestartGuardExpiry origin side s) s := ⟨_, rfl, Tame.guard (tame_setGuard _ _ _ s)⟩

theorem execSpanNotice_tame (side : Side) (s : State) : AnswersTamely (execSpanNotice side s) s :=
  ⟨_, rfl, tame_takeFrame (fun f s => tame_takeSpanNotice side f s) s⟩

theorem execRestartNotice_tame (side : Side) (s : State) : AnswersTamely (execRestartNotice side s) s :=
  ⟨_, rfl, tame_takeFrame (fun f s => tame_takeRestartNotice side f s) s⟩

/-! ## Circuit Logic and Detour Claim Engine (06, 08, 10) -/

theorem tame_settle (s : State) : Tame s (settle s) := (windowed_settle s).tame

theorem tame_takeOldest (mine : CclHand → Bool) (s : State) : Tame s (takeOldest mine s) := by
  unfold takeOldest
  split
  · exact Tame.guard (((tame_setToCcl _ s).trans (calm_takeHand _ _).tame).trans (tame_settle _))
  · exact .refl s

theorem execCclSpanChange_tame (s : State) : AnswersTamely (execCclSpanChange s) s := ⟨_, rfl, tame_takeOldest _ s⟩

theorem execCclSegmentMap_tame (s : State) : AnswersTamely (execCclSegmentMap s) s := ⟨_, rfl, tame_takeOldest _ s⟩

theorem execCclRestart_tame (s : State) : AnswersTamely (execCclRestart s) s := ⟨_, rfl, tame_takeOldest _ s⟩

theorem execCclSecondRestart_tame (s : State) : AnswersTamely (execCclSecondRestart s) s := ⟨_, rfl, tame_takeOldest _ s⟩

theorem execDceLockedChange_tame (s : State) : AnswersTamely (execDceLockedChange s) s := by
  refine ⟨_, rfl, ?_⟩
  split
  · exact Tame.guard ((tame_setToDce _ s).trans (below_lockSpan _ _ _).tame)
  · exact .refl s

theorem execSelfClean_tame (s : State) : AnswersTamely (execSelfClean s) s := by
  refine ⟨_, rfl, ?_⟩
  split
  · exact Tame.guard (Tame.ite ((tame_setToDce _ s).trans (below_cleanSpan _ _).tame) (tame_setToDce _ s))
  · exact .refl s

theorem execDceRestart_tame (s : State) : AnswersTamely (execDceRestart s) s := by
  refine ⟨_, rfl, ?_⟩
  split
  · exact Tame.guard ((tame_setToDce _ s).trans (below_cleanHead _ _).tame)
  · exact .refl s

theorem execClaimTimeoutExpiry_tame (id : Nat) (s : State) : AnswersTamely (execClaimTimeoutExpiry id s) s := by
  refine ⟨_, rfl, ?_⟩
  split
  · rename_i found
    exact Tame.guard ((calm_claimTimedOut _ s (.of_mem (findCircuit_mem found).1)).tame.trans (tame_settle _))
  · exact .refl s

theorem execWaitToRestoreExpiry_tame (id : Nat) (s : State) : AnswersTamely (execWaitToRestoreExpiry id s) s := by
  refine ⟨_, rfl, ?_⟩
  split
  · exact Tame.guard ((calm_onEach calm_revertDetour _ s).tame.trans (tame_settle _))
  · exact .refl s

theorem execDetourClaim_tame (side : Side) (s : State) : AnswersTamely (execDetourClaim side s) s :=
  ⟨_, rfl, tame_takeFrame (fun f s => (calm_takeClaim side f s).tame.trans (tame_settle _)) s⟩

theorem execGrant_tame (side : Side) (s : State) : AnswersTamely (execGrant side s) s :=
  ⟨_, rfl, tame_takeFrame (fun f s => (calm_takeGrantFrame f s).tame.trans (tame_settle _)) s⟩

theorem execRefusal_tame (side : Side) (s : State) : AnswersTamely (execRefusal side s) s :=
  ⟨_, rfl, tame_takeFrame (fun f s => (calm_takeRefusal side f s).tame.trans (tame_settle _)) s⟩

theorem execRelease_tame (side : Side) (s : State) : AnswersTamely (execRelease side s) s :=
  ⟨_, rfl, tame_takeFrame (fun f s => (calm_takeRelease side f s).tame.trans (tame_settle _)) s⟩

theorem execPendingExpiry_tame (side : Side) (lane : Nat) (s : State) :
    AnswersTamely (execPendingExpiry side lane s) s := by
  refine ⟨_, rfl, ?_⟩
  split
  · exact Tame.guard ((calm_pendingExpired _ _ s).tame.trans (tame_settle _))
  · exact .refl s

/-! ## Lane Switch Driver and Tunable Port Controller (09) -/

theorem execLsackReady_tame (ready : Bool) (s : State) : AnswersTamely (execLsackReady ready s) s :=
  ⟨_, rfl, (below_setLsd _ s).tame⟩

theorem execBusTransferEnd_tame (s : State) : AnswersTamely (execBusTransferEnd s) s :=
  ⟨_, rfl, Tame.guard (below_setLsd _ s).tame⟩

theorem execSettleExpiry_tame (side : Side) (lane : Nat) (s : State) : AnswersTamely (execSettleExpiry side lane s) s :=
  ⟨_, rfl, Tame.guard ((calm_settingSettled side lane s).tame.trans (tame_settle _))⟩

theorem execHomingStepExpiry_tame (port : Nat) (s : State) : AnswersTamely (execHomingStepExpiry port s) s :=
  ⟨_, rfl, Tame.guard ((below_homeOnce port s).tame.trans (tame_settle _))⟩

theorem execStepExpiry_tame (port : Nat) (s : State) : AnswersTamely (execStepExpiry port s) s := by
  refine ⟨_, rfl, ?_⟩
  split
  · rename_i c
    simp only [Bool.and_eq_true, decide_eq_true_eq] at c
    exact (below_stepOnce c.1.2).tame.trans (tame_settle _)
  · exact .refl s

/-- A port's pin level is recorded. -/
theorem below_seen {port : Nat} {p : Port} (s : State) (state : p.state = (portAt s port).state)
    (request : p.request = (portAt s port).request) (present : p.present = (portAt s port).present)
    (target : p.target = (portAt s port).target) : Below s (setPort port p s) := by
  refine below_setPort (by simp [Port.moving, state]) (.inr request) fun h lane k => ?_
  rw [present, target] at k
  exact portAt_lanes h port lane k

theorem execHomeIndication_tame (port : Nat) (asserted : Bool) (s : State) :
    AnswersTamely (execHomeIndication port asserted s) s := by
  refine ⟨_, rfl, ?_⟩
  have seen := below_seen (port := port) (p := { portAt s port with homeInd := asserted }) s rfl rfl rfl rfl
  simp only
  split
  · rename_i c
    simp only [Bool.and_eq_true, decide_eq_true_eq] at c
    refine (seen.trans (below_homed ?_)).tame.trans (tame_settle _)
    rw [portAt_setPort_of (port_known (by rw [c.2]; simp))]
    exact c.2
  · exact seen.tame

theorem execPortFaultOnset_tame (port : Nat) (s : State) : AnswersTamely (execPortFaultOnset port s) s :=
  have seen := below_seen (port := port) (p := { portAt s port with faultInd := true }) s rfl rfl rfl rfl
  ⟨_, rfl, Tame.ite ((seen.trans (below_portFault _ _)).tame.trans (tame_settle _)) seen.tame⟩

theorem execPortFaultEnd_tame (port : Nat) (s : State) : AnswersTamely (execPortFaultEnd port s) s := by
  refine ⟨_, rfl, Below.tame ?_⟩
  exact below_seen s rfl rfl rfl rfl

/-! ## Management Port (11) -/

theorem tame_owe (r : Response) (s : State) : Tame s (owe r s) := tame_setMgp id

theorem tame_reply (status : Status) (s : State) : Tame s (reply status s) := tame_owe _ s

theorem tame_answer (data : State → List Byte) (s : State) : Tame s (answer data s) := tame_owe _ s

theorem tame_command {inStart : Bool} {act : State → State} (s : State) (h : Tame s (act s)) :
    Tame s (command inStart act s) := by
  unfold command
  refine Tame.ite (.refl s) (Tame.ite ?_ (Tame.ite (tame_owe _ s) h))
  unfold answerBusy
  exact Tame.guard (tame_owe _ s)

theorem tame_withParams_some {α : Type} {p : Option α} {act : α → State → State} (s : State)
    (h : ∀ a, p = some a → Tame s (act a s)) : Tame s (withParams p act s) := by
  unfold withParams
  split
  · exact h _ rfl
  · exact tame_reply _ s

theorem tame_withParams {α : Type} {p : Option α} {act : α → State → State} (s : State) (h : ∀ a, Tame s (act a s)) :
    Tame s (withParams p act s) := tame_withParams_some s fun a _ => h a

theorem tame_withCircuit {id : Nat} {act : Circuit → State → State} (s : State)
    (h : ∀ c, Backed s c → Tame s (act c s)) : Tame s (withCircuit id act s) := by
  unfold withCircuit
  split
  · rename_i found
    exact h _ (.of_mem (findCircuit_mem found).1)
  · exact tame_reply _ s

theorem tame_carryOut {act : State → Status × State} (s : State) (h : Tame s (act s).2) : Tame s (carryOut act s) := by
  simp only [carryOut]
  split
  · exact (h.trans (tame_settle _)).trans (tame_reply _ _)
  · exact tame_reply _ s

theorem execStatusQuery_tame (p : List Byte) (s : State) : AnswersTamely (execStatusQuery p s) s :=
  ⟨_, rfl, tame_command s (tame_withParams s fun _ => tame_answer _ s)⟩

theorem execSpanQuery_tame (p : List Byte) (s : State) : AnswersTamely (execSpanQuery p s) s := by
  refine ⟨_, rfl, tame_command s (tame_withParams s fun _ => ?_)⟩
  unfold spanQueryOf
  split
  · exact Tame.ite (tame_answer _ s) (tame_reply _ s)
  · split
    · exact tame_answer _ s
    · exact tame_reply _ s

theorem execCircuitQuery_tame (p : List Byte) (s : State) : AnswersTamely (execCircuitQuery p s) s :=
  ⟨_, rfl, tame_command s (tame_withParams s fun _ => tame_withCircuit s fun _ _ => tame_answer _ s)⟩

theorem execCircuitFind_tame (p : List Byte) (s : State) : AnswersTamely (execCircuitFind p s) s := by
  refine ⟨_, rfl, tame_command s (tame_withParams s fun _ => ?_)⟩
  unfold circuitFindOf
  split
  · exact tame_reply _ s
  · exact tame_answer _ s

theorem execLaneQuery_tame (p : List Byte) (s : State) : AnswersTamely (execLaneQuery p s) s := by
  refine ⟨_, rfl, tame_command s (tame_withParams s fun _ => ?_)⟩
  unfold laneQueryOf
  split
  · exact tame_answer _ s
  · exact tame_reply _ s

theorem execPortQuery_tame (p : List Byte) (s : State) : AnswersTamely (execPortQuery p s) s :=
  ⟨_, rfl, tame_command s (tame_withParams s fun _ => tame_answer _ s)⟩

theorem execPlanQuery_tame (p : List Byte) (s : State) : AnswersTamely (execPlanQuery p s) s :=
  ⟨_, rfl, tame_command s (tame_withParams s fun _ => tame_withCircuit s fun _ _ => tame_answer _ s)⟩

theorem execCircuitRequestPin_tame (p : List Byte) (s : State) : AnswersTamely (execCircuitRequestPin p s) s :=
  ⟨_, rfl, tame_command s (tame_withParams s fun _ => tame_withCircuit s fun c b =>
    tame_carryOut s (calm_requestPin c s b).tame)⟩

theorem execCircuitRequestForced_tame (p : List Byte) (s : State) : AnswersTamely (execCircuitRequestForced p s) s :=
  ⟨_, rfl, tame_command s (tame_withParams s fun _ => tame_withCircuit s fun c b =>
    tame_carryOut s (calm_requestDetour .forced c s b).tame)⟩

theorem execCircuitRequestManual_tame (p : List Byte) (s : State) : AnswersTamely (execCircuitRequestManual p s) s :=
  ⟨_, rfl, tame_command s (tame_withParams s fun _ => tame_withCircuit s fun c b =>
    tame_carryOut s (calm_requestDetour .manual c s b).tame)⟩

theorem execCircuitRequestReturn_tame (p : List Byte) (s : State) : AnswersTamely (execCircuitRequestReturn p s) s :=
  ⟨_, rfl, tame_command s (tame_withParams s fun _ => tame_withCircuit s fun c _ =>
    tame_carryOut s (calm_requestReturn c s).tame)⟩

theorem execCircuitRequestClear_tame (p : List Byte) (s : State) : AnswersTamely (execCircuitRequestClear p s) s :=
  ⟨_, rfl, tame_command s (tame_withParams s fun _ => tame_withCircuit s fun c b =>
    tame_carryOut s (calm_requestClear c s b).tame)⟩

theorem execSetForcedOut_tame (p : List Byte) (s : State) : AnswersTamely (execSetForcedOut p s) s :=
  ⟨_, rfl, tame_command s (tame_withParams s fun _ => (tame_setForced _ _ s).trans (tame_reply _ _))⟩

theorem execClearForcedOut_tame (p : List Byte) (s : State) : AnswersTamely (execClearForcedOut p s) s :=
  ⟨_, rfl, tame_command s (tame_withParams s fun _ => (tame_setForced _ _ s).trans (tame_reply _ _))⟩

theorem execSetSparesLocked_tame (p : List Byte) (s : State) : AnswersTamely (execSetSparesLocked p s) s :=
  ⟨_, rfl, tame_command s (tame_withParams s fun _ => (tame_setLocked _ _ s).trans (tame_reply _ _))⟩

theorem execClearSparesLocked_tame (p : List Byte) (s : State) : AnswersTamely (execClearSparesLocked p s) s :=
  ⟨_, rfl, tame_command s (tame_withParams s fun _ => (tame_setLocked _ _ s).trans (tame_reply _ _))⟩

theorem portParam_lt {p : List Byte} {port : Nat} (h : portParam p = some port) : port < Config.ports := by
  unfold portParam at h
  split at h
  · split at h
    · rename_i lt; cases h; exact lt
    · cases h
  · cases h

theorem execRehomePort_tame (p : List Byte) (s : State) : AnswersTamely (execRehomePort p s) s := by
  refine ⟨_, rfl, tame_command s (tame_withParams_some s fun port decoded => ?_)⟩
  unfold rehomeOf
  refine Tame.ite (tame_reply _ s) (Tame.ite (tame_carryOut s ?_) (tame_reply _ s))
  have released : Below s (setPort port { portAt s port with target := none } s) :=
    below_setPort rfl (.inr rfl) fun h lane k => by
      rcases k with k | k
      · exact portAt_lanes h port lane (.inl k)
      · cases k
  exact (released.trans (below_needSlot _ (portParam_lt decoded) (by simp))).tame

theorem execLoopTest_tame (p : List Byte) (s : State) : AnswersTamely (execLoopTest p s) s := by
  refine ⟨_, rfl, tame_command s (tame_withParams s fun side => ?_)⟩
  simp only [loopTestOf, takeLoopTest]
  by_cases c : (s.linkAt side).state = .down ∨ (s.linkAt side).state = .failed
  · have off : (s.linkAt side).state ≠ .up := by rcases c with c | c <;> rw [c] <;> simp
    simp only [Bool.or_eq_true, decide_eq_true_eq, c, if_true]
    exact (tame_setLink (Link.startLoop_lawful s off)).trans (tame_reply _ _)
  · simp only [Bool.or_eq_true, decide_eq_true_eq, c, if_false]
    exact tame_reply _ s

theorem execFetchEvents_tame (p : List Byte) (s : State) : AnswersTamely (execFetchEvents p s) s :=
  ⟨_, rfl, tame_command s (tame_withParams s fun _ =>
    (tame_setMgp (eventsLawful_drop 8)).trans (tame_answer _ _))⟩

theorem execWarmReset_tame (p : List Byte) (s : State) : AnswersTamely (execWarmReset p s) s :=
  ⟨_, rfl, tame_command s (tame_withParams s fun _ => tame_owe _ s)⟩

theorem execBadFrame_tame (why : BadFrameWhy) (s : State) : AnswersTamely (execBadFrame why s) s := by
  refine ⟨_, rfl, tame_command s ?_⟩
  cases why <;> exact tame_reply _ s

theorem execResponseSendComplete_tame (s : State) : AnswersTamely (execResponseSendComplete s) s := by
  refine ⟨_, rfl, ?_⟩
  split
  · exact Tame.ite (.refl s) (tame_setMgp id)
  · exact .refl s

end Sys2Proof.Machine
end

