-- ==== Sys2Proof/Laws/Loads.lean ====
section
/-! SUPPORT. The commands that are not `Tame`: the resets, the tick, the start delay, the two ends of a read, and the commands
that write the demotion list and the frozen flag. Each answers a next state that keeps the waiting commands and the laws. -/

namespace Sys2Proof.Machine

/-- The waiting commands, the reset line, the clock and the reset cause stay, a frozen plan stays frozen with its demotion
list, and the laws are kept. -/
structure Kept (s t : State) : Prop where
  pending : t.pending = s.pending
  rstnLow : t.rstnLow = s.rstnLow
  powerOnDue : t.powerOnDue = s.powerOnDue
  clock : t.clock = s.clock
  resetCause : t.pld.resetCause = s.pld.resetCause
  frozen : s.pld.frozen = true → t.pld.frozen = true ∧ t.pld.demotions = s.pld.demotions
  lawful : Lawful s → Lawful t

/-- A meaning answers a next state that keeps the waiting commands and the laws. -/
def AnswersLawfully (outcome : Host.Outcome State Fault Refusal) (s : State) : Prop :=
  ∃ t, outcome = .next t ∧ t.pending = s.pending ∧ (Lawful s → Lawful t)

/-- A meaning answers a next state that is kept. -/
def AnswersKept (outcome : Host.Outcome State Fault Refusal) (s : State) : Prop := ∃ t, outcome = .next t ∧ Kept s t

theorem Kept.refl (s : State) : Kept s s := ⟨rfl, rfl, rfl, rfl, rfl, fun f => ⟨f, rfl⟩, id⟩

theorem Kept.trans {s t u : State} (h : Kept s t) (k : Kept t u) : Kept s u :=
  ⟨k.pending.trans h.pending, k.rstnLow.trans h.rstnLow, k.powerOnDue.trans h.powerOnDue, k.clock.trans h.clock, k.resetCause.trans h.resetCause,
    fun f => ⟨(k.frozen (h.frozen f).1).1, (k.frozen (h.frozen f).1).2.trans (h.frozen f).2⟩,
    fun l => k.lawful (h.lawful l)⟩

theorem Tame.kept {s t : State} (h : Tame s t) : Kept s t :=
  ⟨h.pending, h.rstnLow, h.powerOnDue, h.clock, by rw [h.pld], fun f => by rw [h.pld]; exact ⟨f, rfl⟩, h.lawful⟩

theorem AnswersTamely.kept {o : Host.Outcome State Fault Refusal} {s : State} (h : AnswersTamely o s) :
    AnswersKept o s := by
  obtain ⟨t, e, k⟩ := h
  exact ⟨t, e, k.kept⟩

theorem AnswersKept.lawfully {o : Host.Outcome State Fault Refusal} {s : State} (h : AnswersKept o s) :
    AnswersLawfully o s := by
  obtain ⟨t, e, k⟩ := h
  exact ⟨t, e, k.pending, k.lawful⟩

theorem Kept.ite {s t u : State} {p : Prop} [Decidable p] (h : Kept s t) (k : Kept s u) : Kept s (if p then t else u) := by
  split
  · exact h
  · exact k

theorem Kept.guard {s t : State} {p : Prop} [Decidable p] (h : Kept s t) : Kept s (if p then t else s) :=
  Kept.ite h (.refl s)

theorem kept_setPld {p : Pld} (s : State) (cause : p.resetCause = s.pld.resetCause) (plan : p.plan = s.pld.plan)
    (frozen : s.pld.frozen = true → p.frozen = true ∧ p.demotions = s.pld.demotions) : Kept s (s.setPld p) := by
  refine ⟨rfl, rfl, rfl, rfl, cause, frozen,
    fun l => ⟨l.events, l.clock, l.links, l.window, l.reset, l.circuits, l.ports, fun side => ?_, l.queue⟩⟩
  rw [State.setPld_pld, plan]
  exact l.map side

/-- A change of the Plan Loader's state that leaves reset cause, plan, frozen flag and demotion list alone. -/
theorem kept_setPld_plain {p : Pld} (s : State) (cause : p.resetCause = s.pld.resetCause) (plan : p.plan = s.pld.plan)
    (frozen : p.frozen = s.pld.frozen) (list : p.demotions = s.pld.demotions) : Kept s (s.setPld p) :=
  kept_setPld s cause plan fun f => ⟨frozen.trans f, list⟩

/-! ## Resets, tick, start delay (01 R4, R5, 02 R19) -/

theorem resetPorts_lawful {ports : List Port} (h : ports.length = Config.ports) :
    Tpc.Lawful ⟨ports.map fun p => .reset p.homeInd p.faultInd, List.replicate Config.slots .free, []⟩ := by
  refine Tpc.Stopped.lawful (x := ports.length) ⟨by simp [h], by simp, fun port _ => ?_, by simp [Tpc.holds, Slot.free], ?_,
    by simp, fun p hp lane k => ?_⟩
  · have still : Tpc.moves ⟨ports.map fun p => .reset p.homeInd p.faultInd, List.replicate Config.slots .free, []⟩ port =
        false := by
      simp only [Tpc.moves, List.getElem?_map]
      cases ports[port]? <;> rfl
    rw [still]
    simp [Tpc.holds, Slot.free]
  · simp [Tpc.moves]
  · obtain ⟨q, _, rfl⟩ := List.mem_map.1 hp
    rcases k with k | k <;> cases k

theorem resetBlocks_lawful {p : Pld} {s : State} (noPlan : p.plan = none) (l : Lawful s) : Lawful (resetBlocks p s) := by
  refine ⟨eventsLawful_nil _, Nat.zero_le _, fun side => ?_, ⟨by simp [resetBlocks], by simp [slotsUsed, resetBlocks]⟩,
    fun k => (by cases k), by simp [circuitsLawful, resetBlocks], resetPorts_lawful l.ports.ports, fun side => ?_, .nil⟩
  · cases side <;> exact Link.reset_lawful
  · have : (resetBlocks p s).pld.plan = none := noPlan
    rw [this]
    cases side <;> rfl

theorem execPowerOnReset_lawful (s : State) : AnswersLawfully (execPowerOnReset s) s := by
  refine ⟨_, rfl, ?_, fun l => ?_⟩
  · split <;> rfl
  · split
    · rename_i low
      simp only [Bool.and_eq_true] at low
      exact ⟨l.events, l.clock, l.links, l.window, fun _ => low.1, l.circuits, l.ports, l.map, l.queue⟩
    · exact resetBlocks_lawful rfl l

theorem execPinReset_lawful (s : State) : AnswersLawfully (execPinReset s) s := by
  refine ⟨_, rfl, ?_, fun l => ?_⟩
  · split <;> rfl
  · split
    · exact resetBlocks_lawful rfl l
    · exact resetBlocks_lawful rfl l

theorem execCommandReset_lawful (s : State) : AnswersLawfully (execCommandReset s) s := by
  refine ⟨_, rfl, ?_, ?_⟩
  · split <;> rfl
  · split
    · exact resetBlocks_lawful rfl
    · exact id

theorem execRstnAsserted_lawful (s : State) : AnswersLawfully (execRstnAsserted s) s :=
  ⟨_, rfl, rfl, fun l => ⟨l.events, l.clock, l.links, l.window, fun _ => rfl, l.circuits, l.ports, l.map, l.queue⟩⟩

theorem execClockTick_lawful (s : State) : AnswersLawfully (execClockTick s) s := by
  refine ⟨_, rfl, ?_, fun l => ?_⟩
  · split <;> rfl
  · split
    · exact l
    · exact ⟨l.events.later (Nat.le_min.2 ⟨Nat.le_succ _, l.clock⟩), Nat.min_le_right _ _, l.links, l.window, l.reset, l.circuits,
        l.ports, l.map, l.queue⟩

theorem execStartDelayExpiry_kept (s : State) : AnswersKept (execStartDelayExpiry s) s :=
  ⟨_, rfl, Kept.guard (kept_setPld_plain s rfl rfl rfl rfl)⟩

/-! ## The end of the load (01 R12 to R14) -/

/-- The plan values come into place with the Spare Lane Map's extent, and what starts in RUN and LISTEN alike starts. -/
theorem kept_loaded (mode : Mode) (plan : Plan) (asRead : AsRead) (clamped discarded : Nat) (cause : ListenCause)
    (s : State) : Kept s (startBlocks (loadEnds mode plan asRead clamped discarded cause s)) := by
  have mapped : ∀ p : Pld, p.resetCause = s.pld.resetCause → p.frozen = s.pld.frozen → p.demotions = s.pld.demotions →
      p.plan = some plan → Kept s
        (((s.setPld p).setLanes .east (List.replicate (Config.lanes - plan.spareBase) .free)).setLanes .west
          (List.replicate (Config.lanes - plan.spareBase) .free)) := by
    intro p cause frozen list placed
    refine ⟨rfl, rfl, rfl, rfl, cause, fun f => ⟨frozen.trans f, list⟩,
      fun l => ⟨l.events, l.clock, l.links, l.window, l.reset, l.circuits, l.ports, fun side => ?_, l.queue⟩⟩
    have : (((s.setPld p).setLanes .east (List.replicate (Config.lanes - plan.spareBase) .free)).setLanes .west
        (List.replicate (Config.lanes - plan.spareBase) .free)).pld.plan = some plan := placed
    rw [this]
    cases side <;> exact List.length_replicate
  have posted := (mapped
    { s.pld with
      mode := mode, plan := some plan, asRead := some asRead, clamped := clamped, discarded := discarded,
      listenCause := cause, load := .none } rfl rfl rfl rfl).trans
    (tame_post (.planLoaded mode clamped discarded cause) _).kept
  exact posted.trans
    (((((tame_nrvStart _).trans (tame_linkStart .east _)).trans (tame_linkStart .west _)).trans
      (tame_monitorStart .east _)).trans (tame_monitorStart .west _)).kept

theorem kept_listenLoad (header : List Byte) (cause : ListenCause) (s : State) : Kept s (listenLoad header cause s) :=
  kept_loaded _ _ _ _ _ _ s

theorem execHeaderReadComplete_kept (bytes : List Byte) (s : State) :
    AnswersKept (execHeaderReadComplete bytes s) s := by
  refine ⟨_, rfl, Kept.guard ?_⟩
  simp only
  exact Kept.ite (kept_setPld_plain s rfl rfl rfl rfl) (kept_listenLoad _ _ s)

/-! ## The accepted records (01 R10, R11) -/

/-- A record as the load leaves it: in WORKING, with no attempt counted and nothing awaited (01 R11). -/
def Circuit.Fresh (c : Circuit) : Prop := c.state = .working ∧ c.count = 0 ∧ c.waitToRestore = none

theorem Circuit.Fresh.lawful {c : Circuit} (h : c.Fresh) : c.Lawful :=
  ⟨by rw [h.2.1]; exact Nat.zero_le _, by rw [h.2.2, h.1]; simp⟩

/-- The records accepted so far are fresh, and no two carry one id (01 R10 check 7). -/
def Sound (cs : List Circuit) : Prop := (cs.map (·.id)).Nodup ∧ ∀ c ∈ cs, c.Fresh

theorem decodeRecord_fresh {i : Ident} {base : Nat} {image : List Byte} {at' : Nat} {c : Circuit}
    (h : decodeRecord i base image at' = some c) : c.Fresh := by
  simp only [decodeRecord] at h
  split at h
  · cases h
  · split at h
    · split at h
      · cases h
      · split at h
        · cases h
        · split at h
          · cases h
          · cases h; exact ⟨rfl, rfl, rfl⟩
    · cases h

theorem takeRecord_sound (i : Ident) (base : Nat) (image : List Byte) (r : Records) (index : Nat)
    (h : Sound r.accepted) : Sound (takeRecord i base image r index).accepted := by
  simp only [takeRecord]
  split
  · exact h
  · rename_i c decoded
    split
    · exact h
    · rename_i clear
      simp only [List.any_eq_true, not_exists, not_and, Bool.not_eq_true] at clear
      refine ⟨?_, fun d hd => ?_⟩
      · rw [List.map_append, List.nodup_append]
        refine ⟨h.1, by simp, fun a ha b hb => ?_⟩
        obtain ⟨d, hd, rfl⟩ := List.mem_map.1 ha
        obtain rfl : b = c.id := by simpa using hb
        intro e
        have := clear d hd
        simp [Circuit.clashes, e] at this
      · rcases List.mem_append.1 hd with k | k
        · exact h.2 d k
        · obtain rfl : d = c := by simpa using k
          exact decodeRecord_fresh decoded

theorem takeRecords_sound (i : Ident) (base : Nat) (image : List Byte) (ns : List Nat) (r : Records)
    (h : Sound r.accepted) : Sound (ns.foldl (takeRecord i base image) r).accepted := by
  induction ns generalizing r with
  | nil => exact h
  | cons n rest ih => exact ih _ (takeRecord_sound i base image r n h)

theorem insertById_perm (c : Circuit) (cs : List Circuit) : (insertById c cs).Perm (c :: cs) := by
  induction cs with
  | nil => exact .refl _
  | cons d rest ih =>
    simp only [insertById]
    split
    · exact .refl _
    · exact (ih.cons d).trans (.swap c d rest)

theorem sortById_perm (cs : List Circuit) : (sortById cs).Perm cs := by
  have fold (sorted : List Circuit) : (cs.foldl (fun t c => insertById c t) sorted).Perm (cs ++ sorted) := by
    induction cs generalizing sorted with
    | nil => exact .refl _
    | cons c rest ih =>
      refine (ih _).trans ?_
      refine ((insertById_perm c sorted).append_left rest).trans ?_
      rw [List.cons_append]
      exact List.perm_middle
  simpa [sortById] using fold []

theorem Sound.perm {cs ds : List Circuit} (p : ds.Perm cs) (h : Sound cs) : Sound ds :=
  ⟨(p.map _).nodup_iff.2 h.1, fun c hc => h.2 c (p.mem_iff.1 hc)⟩

theorem Sound.map {cs : List Circuit} {f : Circuit → Circuit} (id : ∀ c, (f c).id = c.id)
    (fresh : ∀ c, c.Fresh → (f c).Fresh) (h : Sound cs) : Sound (cs.map f) := by
  refine ⟨?_, fun d hd => ?_⟩
  · rw [List.map_map, show ((·.id) ∘ f) = (·.id) from funext id]
    exact h.1
  · obtain ⟨c, hc, rfl⟩ := List.mem_map.1 hd
    exact fresh c (h.2 c hc)

theorem correctLane_same (base : Nat) (c : Circuit) :
    (correctLane base c).1.id = c.id ∧ (c.Fresh → (correctLane base c).1.Fresh) := by
  unfold correctLane
  split
  · split <;> exact ⟨rfl, id⟩
  · exact ⟨rfl, id⟩

theorem correctBundles_sound {keeps : List Circuit → Circuit → Bool} {cs : List Circuit} (h : Sound cs) :
    Sound (correctBundles keeps cs).1 := by
  refine Sound.map (fun c => ?_) (fun c f => ?_) h
  · split <;> rfl
  · split <;> exact f

theorem correctAll_sound (base : Nat) {cs : List Circuit} (h : Sound cs) : Sound (correctAll base cs).1 := by
  simp only [correctAll, List.map_map]
  refine correctBundles_sound (correctBundles_sound ?_)
  exact Sound.map (fun c => (correctLane_same base c).1) (fun c => (correctLane_same base c).2) (h.perm (sortById_perm cs))

/-- A table of sound records uses no window slot. -/
theorem kept_setCircuits {cs : List Circuit} (s : State) (h : Sound cs) : Kept s (s.setCircuits cs) := by
  refine ⟨rfl, rfl, rfl, rfl, rfl, fun f => ⟨f, rfl⟩, fun l =>
    ⟨l.events, l.clock, l.links, ⟨h.1, ?_⟩, l.reset, fun c hc => (h.2 c hc).lawful, l.ports, l.map, l.queue⟩⟩
  have none : cs.filter (fun c => c.role = .head && c.state = .claiming) = [] :=
    List.filter_eq_nil_iff.2 fun c hc => by simp [(h.2 c hc).1]
  simp only [slotsUsed, State.setCircuits_circuits, none]
  exact Nat.zero_le _

theorem tame_homeBound (s : State) : Tame s (homeBound s) := by
  unfold homeBound
  have known : ∀ port ∈ List.range Config.ports, port < Config.ports := fun _ h => List.mem_range.1 h
  revert known
  generalize List.range Config.ports = ports
  intro known
  induction ports generalizing s with
  | nil => exact .refl s
  | cons port rest ih =>
    simp only [List.foldl_cons]
    refine Tame.trans ?_ (ih _ fun p h => known p (List.mem_cons_of_mem _ h))
    split
    · rename_i owner _
      have owned : Below s (setPort port { portAt s port with owner := some owner } s) := below_seen s rfl rfl rfl rfl
      have asks := owned.trans
        (below_needSlot (request := .home) _ (known port (List.mem_cons_self ..)) SlotRequest.noConfusion)
      exact asks.tame.trans (tame_settle _)
    · exact .refl s

theorem kept_runLoad (header image : List Byte) (s : State) : Kept s (runLoad header image s) := by
  simp only [runLoad]
  split
  · exact .refl s
  · rename_i i _
    refine Kept.trans ?_ (tame_homeBound _).kept
    refine Kept.trans ?_ (below_laneLoad _ _).tame.kept
    refine (kept_loaded _ _ _ _ _ _ s).trans (kept_setCircuits _ ?_)
    refine Sound.map (fun _ => rfl) (fun _ => id) (correctAll_sound _ (takeRecords_sound _ _ _ _ _ ?_))
    exact ⟨by simp, by simp⟩

theorem execImageReadComplete_kept (bytes : List Byte) (s : State) :
    AnswersKept (execImageReadComplete bytes s) s := by
  refine ⟨_, rfl, ?_⟩
  split
  · exact .refl s
  · split
    · simp only
      exact Kept.ite (kept_runLoad _ _ s) (kept_listenLoad _ _ s)
    · exact .refl s

/-! ## The plan commands (01 R15, R17, 11 R189) -/

theorem kept_command {inStart : Bool} {act : State → State} (s : State) (h : Kept s (act s)) :
    Kept s (command inStart act s) := by
  unfold command
  refine Kept.ite (.refl s) (Kept.ite ?_ (Kept.ite (tame_owe _ s).kept h))
  unfold answerBusy
  exact Kept.guard (tame_owe _ s).kept

theorem kept_withParams {α : Type} {p : Option α} {act : α → State → State} (s : State) (h : ∀ a, Kept s (act a s)) :
    Kept s (withParams p act s) := by
  unfold withParams
  split
  · exact h _
  · exact (tame_reply _ s).kept

theorem kept_carryOut {act : State → Status × State} (s : State) (h : Kept s (act s).2) : Kept s (carryOut act s) := by
  simp only [carryOut]
  split
  · exact (h.trans (tame_settle _).kept).trans (tame_reply _ _).kept
  · exact (tame_reply _ s).kept

theorem kept_demoteRecord (cls : Class) (c : Circuit) (s : State) (b : Backed s c) (thawed : s.pld.frozen = false) :
    Kept s (demoteRecord cls c s) := by
  simp only [demoteRecord]
  refine Kept.trans
    (t := s.setPld { s.pld with demotions := recordDemotion s.circuits ⟨c.id, cls⟩ s.pld.demotions })
    (kept_setPld s rfl rfl fun f => by rw [thawed] at f; cases f) ?_
  have lowered : ∀ p, Backed (s.setPld p) { c with cls := cls } := fun p =>
    Backed.update (c := c) ⟨b.known, b.slot, b.lawful⟩
  exact (calm_putCircuit (lowered _)).tame.kept.trans (calm_classLowered _ _ (lowered _).put).tame.kept

theorem execDemote_kept (p : List Byte) (s : State) : AnswersKept (execDemote p s) s := by
  refine ⟨_, rfl, kept_command s (kept_withParams s fun d => ?_)⟩
  unfold demoteOf
  by_cases frozen : s.pld.frozen = true
  · rw [if_pos frozen]; exact (tame_reply _ s).kept
  · rw [if_neg frozen]
    unfold withCircuit
    split
    · rename_i c found
      refine Kept.ite (tame_reply _ s).kept (Kept.ite (tame_reply _ s).kept (kept_carryOut s ?_))
      exact kept_demoteRecord _ c s (.of_mem (findCircuit_mem found).1) (by simpa using frozen)
    · exact (tame_reply _ s).kept

theorem kept_restoreClasses (s : State) (thawed : s.pld.frozen = false) : Kept s (restoreClasses s) := by
  simp only [restoreClasses]
  refine Kept.trans ?_ (calm_evaluateAll _ _).tame.kept
  refine Kept.trans (t := s.setPld { s.pld with demotions := [] })
    (kept_setPld s rfl rfl fun f => by rw [thawed] at f; cases f) ?_
  refine ⟨rfl, rfl, rfl, rfl, rfl, fun f => ⟨f, rfl⟩, fun l =>
    ⟨l.events, l.clock, l.links, ⟨?_, ?_⟩, l.reset, fun d hd => ?_, l.ports, l.map, l.queue⟩⟩
  · simp only [State.setCircuits_circuits, List.map_map]
    exact l.window.1
  · simp only [slotsUsed, State.setCircuits_circuits, List.filter_map, List.length_map]
    exact l.window.2
  · obtain ⟨c, hc, rfl⟩ := List.mem_map.1 hd
    exact ⟨(l.circuits c hc).count, (l.circuits c hc).waiting⟩

theorem execRestorePlan_kept (p : List Byte) (s : State) : AnswersKept (execRestorePlan p s) s := by
  refine ⟨_, rfl, kept_command s (kept_withParams s fun _ => ?_)⟩
  by_cases frozen : s.pld.frozen = true
  · simp only [if_pos frozen]; exact (tame_reply _ s).kept
  · simp only [if_neg frozen]
    exact kept_carryOut (act := fun s => (.done, restoreClasses s)) s (kept_restoreClasses s (by simpa using frozen))

theorem execFreezePlan_kept (p : List Byte) (s : State) : AnswersKept (execFreezePlan p s) s := by
  refine ⟨_, rfl, kept_command s (kept_withParams s fun _ => Kept.trans ?_ (tame_reply _ _).kept)⟩
  exact kept_setPld s rfl rfl fun _ => ⟨rfl, rfl⟩

end Sys2Proof.Machine
end

