-- ==== Sys2Proof/Laws/Notices.lean ====
section
/-! SUPPORT. What the blocks at the spans change: `Noticed` for every operation of NRV, and what a monitor's declaration and a
link's report leave. With them, the lemmas of a settled state. -/

namespace Sys2Proof.Machine

theorem Noticed.refl (s : State) : Noticed s s :=
  ⟨rfl, rfl, rfl, rfl, rfl, rfl, rfl, rfl, rfl, rfl, rfl, rfl, rfl, rfl, .refl _ _, fun _ => .refl _⟩

theorem Noticed.trans {s t u : State} (h : Noticed s t) (k : Noticed t u) : Noticed s u where
  pending := k.pending.trans h.pending
  rstnLow := k.rstnLow.trans h.rstnLow
  powerOnDue := k.powerOnDue.trans h.powerOnDue
  clock := k.clock.trans h.clock
  pld := k.pld.trans h.pld
  circuits := k.circuits.trans h.circuits
  queue := k.queue.trans h.queue
  lanes := k.lanes.trans h.lanes
  lsd := k.lsd.trans h.lsd
  tpc := k.tpc.trans h.tpc
  work := k.work.trans h.work
  rx := k.rx.trans h.rx
  owed := k.owed.trans h.owed
  resetDue := k.resetDue.trans h.resetDue
  events := h.events.trans (h.clock ▸ k.events)
  links := fun side => (h.links side).trans (k.links side)

theorem noticed_setNrv (n : Nrv) (s : State) : Noticed s (s.setNrv n) :=
  ⟨rfl, rfl, rfl, rfl, rfl, rfl, rfl, rfl, rfl, rfl, rfl, rfl, rfl, rfl, .refl _ _, fun _ => .refl _⟩

theorem noticed_setMon (side : Side) (m : Monitor) (s : State) : Noticed s (s.setMon side m) :=
  ⟨rfl, rfl, rfl, rfl, rfl, rfl, rfl, rfl, rfl, rfl, rfl, rfl, rfl, rfl, .refl _ _, fun _ => .refl _⟩

theorem noticed_setToCcl (h : List CclHand) (s : State) : Noticed s (s.setToCcl h) :=
  ⟨rfl, rfl, rfl, rfl, rfl, rfl, rfl, rfl, rfl, rfl, rfl, rfl, rfl, rfl, .refl _ _, fun _ => .refl _⟩

theorem noticed_setToDce (h : List DceHand) (s : State) : Noticed s (s.setToDce h) :=
  ⟨rfl, rfl, rfl, rfl, rfl, rfl, rfl, rfl, rfl, rfl, rfl, rfl, rfl, rfl, .refl _ _, fun _ => .refl _⟩

theorem noticed_post (body : EventBody) (s : State) : Noticed s (post body s) :=
  ⟨rfl, rfl, rfl, rfl, rfl, rfl, rfl, rfl, rfl, rfl, rfl, rfl, rfl, rfl, .one _ _ _, fun _ => .refl _⟩

/-- An offered notice reaches a link in UP alone, and touches nothing but that link's transmit half. -/
theorem offerNotice_same (side : Side) (urgent : Bool) (f : Frame) (s : State) :
    ∃ l, (s.linkAt side).Offered l ∧ offerNotice side urgent f s = s.setLink side l := by
  unfold offerNotice
  split
  · rename_i up
    exact ⟨_, Link.Offered.enqueue s urgent f _ up, rfl⟩
  · refine ⟨s.linkAt side, .refl _, ?_⟩
    cases side <;> rfl

theorem noticed_setLink {side : Side} {l : Link} {s : State} (h : (s.linkAt side).Offered l) :
    Noticed s (s.setLink side l) := by
  refine ⟨rfl, rfl, rfl, rfl, rfl, rfl, rfl, rfl, rfl, rfl, rfl, rfl, rfl, rfl, .refl _ _, fun x => ?_⟩
  rw [State.setLink_linkAt]
  split
  · rename_i e; rw [e]; exact h
  · exact .refl _

/-- What an operation of NRV leaves besides `Noticed`: the monitors, and every posted event. -/
structure Relayed (s t : State) : Prop where
  noticed : Noticed s t
  mon : t.mon = s.mon
  mgp : t.mgp = s.mgp

theorem Relayed.refl (s : State) : Relayed s s := ⟨.refl s, rfl, rfl⟩

theorem Relayed.trans {s t u : State} (h : Relayed s t) (k : Relayed t u) : Relayed s u :=
  ⟨h.noticed.trans k.noticed, k.mon.trans h.mon, k.mgp.trans h.mgp⟩

theorem relayed_setNrv (n : Nrv) (s : State) : Relayed s (s.setNrv n) := ⟨noticed_setNrv n s, rfl, rfl⟩

theorem relayed_offerNotice (side : Side) (urgent : Bool) (f : Frame) (s : State) :
    Relayed s (offerNotice side urgent f s) := by
  obtain ⟨l, h, e⟩ := offerNotice_same side urgent f s
  rw [e]
  exact ⟨noticed_setLink h, rfl, rfl⟩

theorem relayed_handChanges (spans : List Nat) (restart : Option Nat) (before s : State) :
    Relayed s (handChanges spans restart before s) :=
  ⟨(noticed_setToCcl _ s).trans (noticed_setToDce _ _), rfl, rfl⟩

theorem relayed_recompute (spans : List Nat) (s : State) : Relayed s (recompute spans s) := relayed_setNrv _ s

theorem relayed_originate (side : Side) (urgent : Bool) (s : State) : Relayed s (originate side urgent s) := by
  simp only [originate]
  split
  · exact ((relayed_setNrv _ s).trans (relayed_offerNotice _ _ _ _)).trans (relayed_offerNotice _ _ _ _)
  · exact .refl s

theorem relayed_takeOwn (side : Side) (condition : Condition) (linkUp locked : Bool) (s : State) :
    Relayed s (takeOwn side condition linkUp locked s) := by
  simp only [takeOwn]
  split
  · exact .refl s
  · split
    · exact .refl s
    · split
      · exact relayed_setNrv _ s
      · exact (((relayed_setNrv _ s).trans (relayed_recompute _ _)).trans (relayed_originate _ _ _)).trans
          (relayed_handChanges _ _ _ _)

theorem relayed_monitorReport (side : Side) (condition : Condition) (locked : Bool) (s : State) :
    Relayed s (monitorReport side condition locked s) := by
  unfold monitorReport
  split
  · exact .refl s
  · exact relayed_takeOwn _ _ _ _ s

theorem relayed_linkStatus (side : Side) (linkUp : Bool) (s : State) : Relayed s (linkStatus side linkUp s) := by
  unfold linkStatus
  split
  · exact .refl s
  · exact relayed_takeOwn _ _ _ _ s

theorem relayed_linkReportsUp (side : Side) (s : State) : Relayed s (linkReportsUp side s) := by
  simp only [linkReportsUp]
  split
  · exact relayed_linkStatus _ _ s
  · split
    · exact relayed_linkStatus _ _ s
    · have both := fun f => (((relayed_setNrv { s.nrv with restartSent := s.nrv.restartSent.set side true } s).trans
        (relayed_offerNotice side true f _)).trans (relayed_linkStatus side true _)).trans
        (relayed_originate side.other true _)
      split
      · exact (both _).trans ⟨noticed_setToCcl _ _, rfl, rfl⟩
      · exact both _

theorem relayed_relay (arrival : Side) (urgent : Bool) (hops : Nat) (f : Frame) (s : State) :
    Relayed s (relay arrival urgent hops f s) := by
  unfold relay
  split
  · exact .refl s
  · exact relayed_offerNotice _ _ _ s

/-! ## Own reports -/

theorem offerNotice_nrv (side : Side) (urgent : Bool) (f : Frame) (s : State) :
    (offerNotice side urgent f s).nrv = s.nrv := by
  obtain ⟨l, _, e⟩ := offerNotice_same side urgent f s
  rw [e]; rfl

/-- An origination changes the own report of its side in the sequence alone, and leaves the other side's. -/
theorem originate_own (side x : Side) (urgent : Bool) (s : State) (r : Report) (h : s.nrv.own.get x = some r) :
    ∃ q, (originate side urgent s).nrv.own.get x = some q ∧ q = { r with seq := q.seq } := by
  simp only [originate]
  split
  · rename_i i own _ here
    simp only [offerNotice_nrv, setOwn, State.setNrv_nrv]
    rw [Both.get_set]
    split
    · rename_i e
      subst e
      simp only [ownReport] at here
      rw [h] at here
      cases here
      exact ⟨_, rfl, rfl⟩
    · exact ⟨r, h, rfl⟩
  · exact ⟨r, h, rfl⟩

theorem takeOwn_own (side : Side) (condition : Condition) (linkUp locked : Bool) (s : State) (r : Report)
    (h : s.nrv.own.get side = some r) :
    ∃ q, (takeOwn side condition linkUp locked s).nrv.own.get side = some q ∧ q.condition = condition ∧
      q.linkUp = linkUp ∧ q.locked = locked := by
  simp only [takeOwn, ownReport, h]
  split
  · rename_i e
    simp only [Bool.and_eq_true, decide_eq_true_eq] at e
    exact ⟨r, h, e.1.1, e.1.2, e.2⟩
  · split
    · exact ⟨{ r with condition := condition, linkUp := linkUp, locked := locked }, by simp [setOwn], rfl, rfl, rfl⟩
    · rename_i i _
      have own : (recompute [i.span side] (setOwn side { r with condition := condition, linkUp := linkUp, locked := locked }
          s)).nrv.own.get side = some { r with condition := condition, linkUp := linkUp, locked := locked } := by
        simp [recompute, setOwn]
      obtain ⟨q, hq, e⟩ := originate_own side side true _ _ own
      refine ⟨q, hq, ?_, ?_, ?_⟩ <;> rw [e]

theorem monitorReport_own (side : Side) (condition : Condition) (locked : Bool) (s : State) (r : Report)
    (h : s.nrv.own.get side = some r) :
    ∃ q, (monitorReport side condition locked s).nrv.own.get side = some q ∧ q.condition = condition ∧
      q.linkUp = r.linkUp ∧ q.locked = locked := by
  have h' : ownReport s side = some r := h
  simp only [monitorReport, h']
  exact takeOwn_own side condition r.linkUp locked s r h

theorem reportsLink_linkStatus (side : Side) (linkUp : Bool) (s : State) :
    ReportsLink side linkUp s (linkStatus side linkUp s) := by
  intro r h
  have h' : ownReport s side = some r := h
  simp only [linkStatus, h']
  obtain ⟨q, hq, a, b, c⟩ := takeOwn_own side r.condition linkUp r.locked s r h
  exact ⟨q, hq, b, a, c⟩

theorem reportsLink_linkReportsUp (side : Side) (s : State) : ReportsLink side true s (linkReportsUp side s) := by
  intro r h
  simp only [linkReportsUp]
  split
  · exact reportsLink_linkStatus side true s r h
  · rename_i i _
    split
    · exact reportsLink_linkStatus side true s r h
    · have marked : (offerNotice side true (restartNoticeFrame i.node (i.ring - 1))
          (s.setNrv { s.nrv with restartSent := s.nrv.restartSent.set side true })).nrv.own.get side = some r := by
        rw [offerNotice_nrv]; exact h
      obtain ⟨q, hq, a, b, c⟩ := reportsLink_linkStatus side true _ r marked
      obtain ⟨p, hp, e⟩ := originate_own side.other side true _ q hq
      have fields : p.linkUp = true ∧ p.condition = r.condition ∧ p.locked = r.locked := by
        refine ⟨?_, ?_, ?_⟩ <;> rw [e]
        · exact a
        · exact b
        · exact c
      split
      · exact ⟨p, hp, fields⟩
      · exact ⟨p, hp, fields⟩

/-! ## Declarations -/

theorem declare_declares (side : Side) (m : Monitor) (s : State) : Declares side m s (declare side m s) := by
  simp only [declare]
  by_cases same : m.declared.getD .clear = m.declares
  · simp only [same, if_true]
    exact
      { monitor := by cases side <;> rfl, other := by cases side <;> rfl, posted := fun c => absurd same c,
        reported := fun c => absurd same c, unchanged := fun _ => ⟨rfl, rfl, rfl, rfl, rfl⟩,
        frame := noticed_setMon _ _ s }
  · simp only [same, if_false]
    have handed := relayed_monitorReport side m.declares m.sparesLocked
      (post (.spanDeclared side m.declares (m.declared.getD .clear) m.state)
        (s.setMon side { m with declared := some m.declares }))
    exact
      { monitor := by unfold State.monAt; rw [handed.mon]; cases side <;> rfl
        other := by unfold State.monAt; rw [handed.mon]; cases side <;> rfl
        posted := fun _ => by rw [handed.mgp]; rfl
        reported := fun _ r h => monitorReport_own side m.declares m.sparesLocked _ r h
        unchanged := fun c => absurd c same
        frame := ((noticed_setMon _ _ s).trans (noticed_post _ _)).trans handed.noticed }

/-! ## Settled states -/

theorem settleFor_settled (n : Nat) {s : State} (h : Settled s) : settleFor n s = s := by
  cases n with
  | zero => rfl
  | succ n => unfold settleFor; rw [h]

/-- A settled state is its own settling. -/
theorem settle_settled {s : State} (h : Settled s) : settle s = s := settleFor_settled _ h

theorem members_congr {s t : State} (circuits : t.circuits = s.circuits) (ids : List Nat) : members t ids = members s ids := by
  unfold members findCircuit
  rw [circuits]

/-- Whether a state is settled lies in its work list, its claim queue and its Circuit Table alone. -/
theorem Settled.same {s t : State} (h : Settled s) (work : t.work = s.work) (queue : t.queue = s.queue)
    (circuits : t.circuits = s.circuits) : Settled t := by
  unfold Settled settleOnce serveOnce findCircuit groupOf slotsUsed at *
  rw [work, queue, circuits]
  revert h
  cases s.work with
  | cons w rest => intro h; cases h
  | nil =>
    simp only
    cases s.queue with
    | nil => exact fun _ => rfl
    | cons e rest =>
      simp only
      cases hf : s.circuits.find? fun c => c.id = e.lead with
      | none => intro h; simp at h
      | some c =>
        simp only
        generalize (if c.bundle = 0 then [c.id]
          else (s.circuits.filter fun m => m.role = .head && m.bundle = c.bundle).map (·.id)) = group
        by_cases room : (s.circuits.filter fun c => c.role = .head && c.state = .claiming).length + group.length ≤
          Config.window
        · rw [if_pos room]; exact fun h => by cases h
        · rw [if_neg room, if_neg room]; exact fun _ => rfl

end Sys2Proof.Machine
end

