-- ==== Sys2Proof/Tests/Slice0.lean ====
section
/-! SUPPORT. The model's own tests: the well-formedness check refuses an ill-formed term of each kind; the formats of the
manual's worked examples; and for each statement with hypotheses a state and operands that meet them, clause by clause. -/

namespace Sys2Proof.Tests

open Sys2Proof.Machine

set_option Elab.async false

/-! ## Well-formedness -/

theorem test_wf_headerLength : (Instr.headerReadComplete [0x46]).wf = false := by decide
theorem test_wf_imageLength : (Instr.imageReadComplete (List.replicate 8161 0)).wf = false := by decide +kernel
theorem test_wf_heldFrame : (Instr.heldFrameReceived .east .fast ⟨.idle, []⟩).wf = false := by decide
theorem test_wf_span : (Instr.freshnessExpiry 24 .westEnd).wf = false := by decide
theorem test_wf_origin : (Instr.restartGuardExpiry 24 .east).wf = false := by decide
theorem test_wf_claimId : (Instr.claimTimeoutExpiry 4096).wf = false := by decide
theorem test_wf_restoreId : (Instr.waitToRestoreExpiry 4096).wf = false := by decide
theorem test_wf_pendingLane : (Instr.pendingExpiry .east 48).wf = false := by decide
theorem test_wf_settleLane : (Instr.settleExpiry .east 48).wf = false := by decide
theorem test_wf_ports : ([Instr.homingStepExpiry 12, .stepExpiry 12, .homeIndication 12 true, .portFaultOnset 12,
    .portFaultEnd 12].all fun c => !c.wf) = true := by decide
theorem test_wf_requests : ([Instr.circuitRequestPin [0, 1, 2], .circuitRequestForced [0, 1, 1],
    .circuitRequestManual [0, 1, 1], .circuitRequestReturn [0, 1, 1], .circuitRequestClear [0, 1, 1]].all fun c =>
      !c.wf) = true := by decide
theorem test_wf_flags : ([Instr.setForcedOut [0, 1, 1], .clearForcedOut [0, 0, 1], .setSparesLocked [0, 1, 0],
    .clearSparesLocked [0, 1, 1]].all fun c => !c.wf) = true := by decide
theorem test_wf_params : ([Instr.statusQuery, .spanQuery, .circuitQuery, .circuitFind, .laneQuery, .portQuery,
    .planQuery, .demote, .restorePlan, .freezePlan, .rehomePort, .loopTest, .fetchEvents, .warmReset].all fun c =>
      !(c (List.replicate 33 0)).wf) = true := by decide
theorem test_wf_accepts : ([Instr.headerReadComplete (List.replicate 32 0), .heldFrameReceived .east .fast
    ⟨.restartNotice, [1, 7]⟩, .portFaultEnd 11, .circuitRequestPin [], .setForcedOut [0], .clearForcedOut [1, 0, 0],
    .laneQuery [0, 47]].all Instr.wf) = true := by decide

/-! ## Formats -/

/-- The CRC of the catalogued check string. -/
theorem test_crc : crc16 [0x31, 0x32, 0x33, 0x34, 0x35, 0x36, 0x37, 0x38, 0x39] = 0x29B1 := by decide +kernel

/-- A Loop Test frame's bytes, taken one by one, give the frame back. -/
theorem test_frameBytes : ((Frame.bytes ⟨.loopTest, [16]⟩).foldl (fun (r : Receiver × Heard) b => r.1.take b)
    (.hunting, .nothing)).2 = .frame ⟨.loopTest, [16]⟩ := by decide +kernel

/-- A Lane Query of East, lane 45, in bytes, and one byte changed. -/
theorem test_commandBytes :
    (([0xA5, 0x05, 0x02, 0x00, 0x2D, 0x27] : List Byte).foldl (fun s b => mrxByte b s) State.reset).pending =
      [.laneQuery [0x00, 0x2D]] ∧
    (([0xA5, 0x05, 0x02, 0x00, 0x2D, 0x28] : List Byte).foldl (fun s b => mrxByte b s) State.reset).pending =
      [.badFrame .badCheck] := by decide +kernel

/-- No row of the table gives bits. -/
theorem test_tableWord : decodeTableWord 8 0x01 = none ∧ State.reset.withFetchWord 8 0x01 = State.reset := by decide

/-! ## Sample states -/

/-- The state that a command answers. -/
def after (c : Instr) (s : State) : State :=
  match exec c s with
  | .next t => t
  | .fault _ => s
  | .refused _ => s

def sampleReport : Report := ⟨.clear, true, false, 1, false, none⟩

/-- Node `n` of a ring of 8 in RUN with some records: B is 32, both links UP at Fast, every span Usable, every entry
Free. -/
def node (n : Nat) (cs : List Circuit) : State :=
  { State.reset with
    pld := { Pld.powerOn with
      mode := .run
      startDelay := none
      plan := some { Plan.absent with
        ident := some ⟨n, 8⟩, spareBase := 32, holdOff := 3000, soak := 20000, waitToRestore := 3000000,
        degradeThreshold := 40, degradeWindows := 2, refresh := 100000, claimTimeout := 20000, stepInterval := 100,
        settle := 500, topRate := .fast, spans := List.replicate 8 ⟨1000, 30⟩ } }
    link := ⟨{ Link.reset with state := .up, topRate := some .fast, rate := some .fast },
      { Link.reset with state := .up, topRate := some .fast, rate := some .fast }⟩
    nrv := { Nrv.reset with
      ring := List.replicate 8 ⟨some sampleReport, some sampleReport, .usable, false, false⟩
      own := ⟨some sampleReport, some sampleReport⟩
      segments := List.replicate 8 0
      restartSent := ⟨true, true⟩ }
    lanes := ⟨List.replicate 16 .free, List.replicate 16 .free⟩
    circuits := cs }

/-- The state with the East link changed. -/
def onEast (f : Link → Link) (s : State) : State := s.setLink .east (f (s.linkAt .east))

/-- The state with the East monitor changed. -/
def monEast (f : Monitor → Monitor) (s : State) : State := s.setMon .east (f (s.monAt .east))

/-- The state with a span Failed. -/
def failed (span : Nat) (s : State) : State :=
  s.setNrv { s.nrv with ring := modifyAt span (fun e => { e with status := .failed }) s.nrv.ring }

/-- The state with a frame in the holding of the East link. -/
def holding (f : Frame) (s : State) : State := onEast (fun l => { l with holding := [f] }) s

/-- The state with port 2 IDLE on lane 5 and its owner given. -/
def portIdle (owner : Option Nat) (s : State) : State :=
  setPort 2 { portAt s 2 with state := .idle, present := some 5, owner := owner } s

/-- The state with port 2 in a slot, its step deadline due. -/
def portInSlot (state : PortState) (p : Port) (s : State) : State :=
  (setPort 2 { p with state := state } s).setTpc
    { (setPort 2 { p with state := state } s).tpc with slots := [⟨some 2, some 0⟩, .free, .free, .free] }

/-- Circuit 301 from node 1 to node 4, working East on lane 5, on port 2. -/
def c301 (role : Role) : Circuit := Circuit.create 301 1 4 .east 5 role .opportunistic none 4 0 true 0 0 (some 2)

/-- Its attempt on lane 45 against the working direction. -/
def m301 : Attempted := ⟨301, 1, 4, .west, 45, 1⟩

/-- Its claim, as an entry carries it. -/
def claim301 : Claim := m301.claim ⟨3, 1, 4, 301⟩

/-- The head in a state on detour lane 45. -/
def detoured (state : CircuitState) : Circuit := { c301 .head with state := state, detour := some 45, tag := 1 }

/-- Node 1 with that head, its port IDLE on another lane than its working lane. -/
def headAway (state : CircuitState) : State :=
  let s := portIdle (some 301) (node 1 [detoured state])
  setPort 2 { portAt s 2 with present := some 45 } s

/-! ## The device -/

theorem test_step_takesTheFront : step { State.reset with pending := [.clockTick] } = .next { State.reset with clock := 1 } :=
  rfl

theorem test_hyps_lawfulStep : ∃ s t : State, Lawful s ∧ step s = .next t :=
  ⟨{ State.reset with pending := [.clockTick] }, _,
    ⟨eventsLawful_nil _, Nat.zero_le _, fun side => by cases side <;> exact Link.reset_lawful, ⟨.nil, Nat.zero_le _⟩,
      fun k => (by cases k), fun _ k => (by cases k),
      resetPorts_lawful (ports := List.replicate 12 (.reset false false)) rfl, fun side => by cases side <;> rfl, .nil⟩, rfl⟩

theorem test_hyps_heldReset :
    ({ State.reset with rstnLow := true } : State).rstnLow = true ∧ actsInReset .clockTick = false := by decide

/-- The supply becomes stable under a low RSTN: the release is the power-on reset. -/
theorem test_hyps_deferredReset :
    let low := after .rstnAsserted ((node 1 []).setPld { (node 1 []).pld with frozen := true })
    let stable := after .powerOnReset low
    low.rstnLow = true ∧ low.powerOnDue = false ∧ stable.powerOnDue = true ∧ stable.pld.frozen = true ∧
    (after .pinReset low).pld.resetCause = .resetPin ∧ (after .pinReset low).pld.frozen = true ∧
    (after .pinReset stable).pld.resetCause = .powerOn ∧ (after .pinReset stable).pld.startDelay = some 5000 ∧
    (after .pinReset stable).powerOnDue = false ∧ after .powerOnReset stable = after .pinReset stable := by decide +kernel

theorem test_hyps_commandReset :
    let s := (node 1 []).setMgp { Mgp.reset with resetDue := true }
    s.rstnLow = false ∧ s.mgp.resetDue = true ∧ (after .commandReset s).pld.resetCause = .command := by decide +kernel

theorem test_hyps_commands : (node 1 []).takesCommands ∧
    ((node 1 []).setPld { (node 1 []).pld with frozen := true }).takesCommands ∧
    demoteParams [0x01, 0x2D, 0x00] = some (301, .none) := by decide +kernel

theorem test_hyps_clock : State.reset.clock < 0xFFFFFFFFFFFF ∧
    after .clockTick { State.reset with clock := 0xFFFFFFFFFFFF } = { State.reset with clock := 0xFFFFFFFFFFFF } := by
  decide +kernel

theorem test_deadlines : arm { State.reset with clock := 0xFFFFFFFFFFFE } 5 = some 0xFFFFFFFFFFFF ∧
    due { State.reset with clock := 4999 } State.reset.pld.startDelay = false ∧
    due { State.reset with clock := 5000 } State.reset.pld.startDelay = true := by decide +kernel

/-! ## The plan -/

/-- A header of a ring of 3, node 0, no circuit. -/
def header3 : List Byte :=
  [0x46, 0x37, 0x31, 0x34, 1, 0, 0, 46, 0, 3, 32, 0, 3, 20, 30, 2, 0, 40, 10, 20, 5, 1, 10, 5, 0, 0, 0, 0, 0, 0, 0, 0]

/-- The bytes after it, its check byte chosen. -/
def rest3 (check : Byte) : List Byte := [0, 100, 0, 30, 0, 100, 0, 30, 0, 100, 0, 30, 0x5A, check]

/-- The state while the header is being read, and while the rest is. -/
def reading (load : Load) : State := State.reset.setPld { State.reset.pld with startDelay := none, load := load }

theorem test_hyps_read : due { State.reset with clock := 5000 } State.reset.pld.startDelay = true ∧
    header3.length = 32 ∧ headerFault header3 = .none ∧
    (after (.headerReadComplete header3) (reading .header)).pld.load = .rest header3 := by decide +kernel

theorem test_hyps_badHeader : headerFault (header3.set 4 2) = .version ∧
    (after (.headerReadComplete (header3.set 4 2)) (reading .header)).pld.mode = .listen := by decide +kernel

theorem test_hyps_badTrailer : (rest3 0).length = hLength header3 - 32 ∧ trailerFault (header3 ++ rest3 0) = .check ∧
    (after (.imageReadComplete (rest3 0)) (reading (.rest header3))).pld.listenCause = .check := by decide +kernel

theorem test_hyps_goodImage : (rest3 0x5A).length = hLength header3 - 32 ∧
    trailerFault (header3 ++ rest3 0x5A) = .none ∧ headerIdent header3 = some ⟨0, 3⟩ ∧
    (after (.imageReadComplete (rest3 0x5A)) (reading (.rest header3))).pld.mode = .run := by decide +kernel

/-- Such an image with one record, of circuit 301 with its tail here, and a demotion waiting for it. -/
theorem test_hyps_goodImageLoaded :
    let header := (header3.set 7 62).set 11 1
    let rest : List Byte :=
      [0, 100, 0, 30, 0, 100, 0, 30, 0, 100, 0, 30, 1, 45, 1, 0, 0, 5, 1, 255, 4, 0, 1, 2, 0, 0, 0, 0, 0x5A, 14]
    let s := (reading (.rest header)).setPld { (reading (.rest header)).pld with demotions := [⟨301, .none⟩] }
    let t := after (.imageReadComplete rest) s
    rest.length = hLength header - 32 ∧ trailerFault (header ++ rest) = .none ∧ headerIdent header = some ⟨0, 3⟩ ∧
    s.circuits = [] ∧ s.tpc = State.reset.tpc ∧ s.lsd = .reset false ∧
    t.circuits.map (·.cls) = [.none] ∧ t.lsd.bus.length = 96 ∧ (portAt t 2).state = .homing ∧
    (t.lsd.record .west 5).pending = some (.addDrop 2) ∧ t.lanes.get .east = List.replicate 16 .free ∧
    (decodeRecord ⟨0, 3⟩ 32 (header ++ rest) 44).map (·.role) = some .tail := by decide +kernel

theorem test_headerClamps : headerClamped header3 = 0 ∧ headerClamped (header3.set 12 101) = 1 ∧
    (headerPlan (header3.set 12 101)).holdOff = 100000 ∧ headerClamped (header3.set 24 3) = 1 := by decide +kernel

/-- The records of R10: one that decodes; with class code 3 or priority 8 it does not; the same id again clashes. -/
theorem test_hyps_records :
    let record (cls prio : Byte) : List Byte := [1, 45, 1, 0, 0, 5, cls, 255, prio, 0, 1, 2, 0, 0, 0, 0]
    let image (records : List (List Byte)) : List Byte := List.replicate 44 0 ++ records.flatten
    let taken (records : List (List Byte)) := (List.range records.length).foldl (takeRecord ⟨0, 3⟩ 32 (image records)) ⟨[], 0, 0⟩
    let counts (records : List (List Byte)) := ((taken records).accepted.length, (taken records).discarded)
    counts [record 2 7] = (1, 0) ∧ counts [record 3 7] = (0, 1) ∧ counts [record 2 8] = (0, 1) ∧
    counts [record 2 7, record 2 7] = (1, 1) := by decide +kernel

/-- Both spans dark at the end of a load: with a hold-off of 3 both hold off; with none both are declared Cut. -/
theorem test_hyps_startFaulty :
    let t (holdOff check : Byte) := after (.imageReadComplete (rest3 check)) (reading (.rest (header3.set 12 holdOff)))
    (State.reset.monAt .east = .reset (State.reset.monAt .east).light (State.reset.monAt .east).lock) ∧
    (State.reset.monAt .west).rawFault = true ∧ (t 3 0x5A).pld.mode = .run ∧
    ((t 3 0x5A).monAt .east).state = .holdoff ∧ ((t 3 0x5A).monAt .west).window = some 10000 ∧
    ((t 3 0x5A).nrv.ring.map (·.status)) = [.unknown, .unknown, .unknown] ∧
    (t 0 0x5D).mgp.events.map (·.body) =
      [.planLoaded .run 0 0 .none, .spanDeclared .east .cut .clear .cut, .spanDeclared .west .cut .clear .cut] ∧
    ((t 0 0x5D).nrv.ring.map (·.status)) = [.failed, .unknown, .failed] := by decide +kernel

theorem test_hyps_corrections : (([c301 .head, { c301 .head with id := 300, planClass := .preplanned }]).map (·.id)).Nodup ∧
    (correctAll 32 [c301 .head, { c301 .head with id := 300, planClass := .preplanned }]).2 = 1 := by decide +kernel

/-! ## Span Monitors -/

/-- The East monitor in a state, with light and lock or without. -/
def monitor (state : MonState) (lit : Bool) : State :=
  monEast (fun m => { m with state := state, light := lit, lock := true, declared := some .clear }) (node 1 [])

theorem test_hyps_onset : (monitor .clear true).running = true ∧ ((monitor .clear true).monAt .east).rawFault = false ∧
    (monitor .clear true).plan.holdOff ≠ 0 ∧
    ((after (.lightChange .east false) (monitor .clear true)).monAt .east).state = .holdoff ∧
    ((after (.frameLockChange .east false) (monitor .soak true)).monAt .east).state = .cut := by decide +kernel

theorem test_hyps_onsetAtOnce :
    let s := (monitor .clear true).setPld { (node 1 []).pld with plan := some { (node 1 []).plan with holdOff := 0 } }
    s.running = true ∧ s.plan.holdOff = 0 ∧
      ((after (.lightChange .east false) s).monAt .east).declared = some .cut := by decide +kernel

theorem test_hyps_faultEnd : ((monitor .holdoff false).monAt .east).rawFault = true ∧
    ((after (.lightChange .east true) (monitor .holdoff false)).monAt .east).state = .clear ∧
    ((after (.lightChange .east true) (monitor .cut false)).monAt .east).soak = some 20000 ∧
    State.reset.running = false := by decide +kernel

theorem test_hyps_monitorExpiries :
    let held := monEast (fun m => { m with holdOff := some 0 }) (monitor .holdoff false)
    let soaking := monEast (fun m => { m with soak := some 0 }) (monitor .soak true)
    due held (held.monAt .east).holdOff = true ∧ ((after (.holdOffExpiry .east) held).monAt .east).state = .cut ∧
    due soaking (soaking.monAt .east).soak = true ∧
    ((after (.clearSoakExpiry .east) soaking).monAt .east).state = .clear := by decide +kernel

theorem test_hyps_window :
    let s := monEast (fun m => { m with window := some 0, windowCount := 40, badRun := 1 }) (monitor .clear true)
    due s (s.monAt .east).window = true ∧ ((after (.windowBoundaryExpiry .east) s).monAt .east).own = .degraded ∧
    ((after (.windowBoundaryExpiry .east) (monEast (fun m => { m with windowCount := 39 }) s)).monAt .east).badRun = 0 := by
  decide +kernel

theorem test_hyps_flags : (monitor .clear true).takesCommands ∧
    ((after (.setForcedOut [0, 0, 1]) (monitor .clear true)).monAt .east).declared = some .forcedOut ∧
    ((monitor .clear true).monAt .east).sparesLocked = false ∧
    ((after (.setSparesLocked [0, 1, 1]) (monitor .clear true)).monAt .east).sparesLocked = true ∧
    (after (.clearSparesLocked [0, 1, 0]) (monitor .clear true)).mgp.owed = [⟨.done, [], false⟩] := by decide +kernel

/-! ## Span Links -/

/-- The East link in a state, at Fast. -/
def linked (state : LinkState) (f : Link → Link) : State := onEast (fun l => f { l with state := state }) (node 1 [])

theorem test_hyps_hailSent :
    let waiting := linked .down fun l => { l with hailSeq := some 0 }
    let burst (n : Nat) (gap : Bool) := linked .down fun l => { l with hail := some ⟨n, gap⟩, hailBurst := some 0 }
    let pacing := linked .pacing fun l => { l with hail := some ⟨6, false⟩, hailBurst := some 0 }
    ((after (.hailSequenceExpiry .east) waiting).linkAt .east).hail = some ⟨1, false⟩ ∧
    ((after (.hailBurstExpiry .east) (burst 5 false)).linkAt .east).hail = some ⟨5, true⟩ ∧
    ((after (.hailBurstExpiry .east) (burst 5 true)).linkAt .east).hail = some ⟨6, false⟩ ∧
    ((after (.hailBurstExpiry .east) (burst 6 false)).linkAt .east).answerGuard = some 1000 ∧
    ((after (.hailBurstExpiry .east) pacing).linkAt .east).sending = some ⟨⟨.pace, []⟩, .fast⟩ ∧
    ((after (.hailAnswerGuardExpiry .east) (linked .up fun l => { l with answerGuard := some 0 })).linkAt .east).answerGuard =
      none := by decide +kernel

theorem test_hyps_hailReceived :
    let count (n at' : Nat) := { linked .down (fun l => { l with hailCount := n, lastBurstEnd := some 0, gapLimit := some 450 })
      with clock := at' }
    ((after (.receivedBurstStart .east) (count 1 149)).linkAt .east).hailCount = 0 ∧
    ((after (.receivedBurstStart .east) (count 1 150)).linkAt .east).hailCount = 1 ∧
    ((after (.receivedBurstEnd .east) (count 2 300)).linkAt .east).hailCount = 3 ∧
    ((after (.receivedBurstEnd .east) (count 3 300)).linkAt .east).state = .pacing ∧
    ((after (.receivedBurstEnd .east) (onEast (fun l => { l with answerGuard := some 300 }) (count 3 300))).linkAt .east).hail =
      none ∧
    ((after (.hailGapLimitExpiry .east) (count 3 450)).linkAt .east).hailCount = 0 := by decide +kernel

theorem test_hyps_fallBack :
    ((after (.listeningExpiry .east) (linked .listening fun l => { l with listening := some 0 })).linkAt .east).state = .down ∧
    ((after (.readyingExpiry .east) (linked .readying fun l => { l with readying := some 0 })).linkAt .east).state = .down ∧
    ((after (.failedHoldExpiry .east) (linked .failed fun l => { l with failedHold := some 0 })).linkAt .east).state = .down ∧
    ([Rate.fast, .middle, .slow].map fun r => ((after (.rateWindowExpiry .east)
      (linked .pacing fun l => { l with rate := some r, rateWindow := some 0 })).linkAt .east).state) =
        [.pacing, .pacing, .failed] := by decide +kernel

theorem test_hyps_pace :
    ((after (.paceFrameReceived .east .fast) (linked .pacing id)).linkAt .east).sending = some ⟨⟨.ready, []⟩, .fast⟩ ∧
    ((after (.paceFrameReceived .east .slow) (linked .listening id)).linkAt .east).rate = some .slow ∧
    ((after (.paceFrameReceived .east .fast) (linked .readying fun l => { l with readyCount := 2 })).linkAt .east).readyCount =
      0 ∧ ((after (.paceFrameReceived .east .fast) (linked .up id)).linkAt .east).silence = some 5000 := by decide +kernel

theorem test_hyps_validFrame :
    let full := linked .up fun l => { l with holding := List.replicate 4 ⟨.restartNotice, [3, 7]⟩ }
    ((after (.readyFrameReceived .east .fast) (linked .readying fun l => { l with readyCount := 1 })).linkAt .east).readyCount =
      2 ∧ ((after (.idleFrameReceived .east .fast) (linked .readying fun l => { l with readyCount := 2 })).linkAt .east).state =
      .up ∧ ((after (.loopTestFrameReceived .east .fast 1) (linked .up fun l => { l with errorRun := 3 })).linkAt .east).errorRun =
      0 ∧ ((after (.heldFrameReceived .east .fast ⟨.restartNotice, [3, 7]⟩) full).linkAt .east).overruns = 1 ∧
    after (.idleFrameReceived .east .slow) (linked .up id) = linked .up id := by decide +kernel

theorem test_hyps_leaveUp :
    let erring := linked .up fun l => { l with errorRun := 3 }
    ((after (.erroredFrame .east .checkError) (linked .up fun l => { l with errorRun := 2 })).linkAt .east).errorRun = 3 ∧
    ((after (.erroredFrame .east .checkError) erring).linkAt .east).state = .down ∧
    ((after (.erroredFrame .east .framingError) (linked .readying id)).linkAt .east).framingErrors = 1 ∧
    ((after (.silenceExpiry .east) (linked .up fun l => { l with silence := some 0 })).linkAt .east).state = .down := by
  decide +kernel

/-- A transmit queue of some urgent and routine frames. -/
def queued (urgent routine : Nat) : Link :=
  { Link.reset with
    state := .up, urgent := List.replicate urgent ⟨.grant, [1]⟩, routine := List.replicate routine ⟨.spanNotice, [2]⟩ }

theorem test_hyps_transmitQueue : (queued 8 7).depth < 16 ∧ (queued 8 8).depth = 16 ∧
    (queued 8 8).routine = List.replicate 7 ⟨.spanNotice, [2]⟩ ++ [⟨.spanNotice, [2]⟩] ∧ (queued 16 0).depth = 16 ∧
    ((queued 16 0).enqueue true ⟨.grant, [3]⟩).txOverflow = 1 ∧
    ((queued 8 8).enqueue true ⟨.grant, [3]⟩).routine.length = 7 := by decide +kernel

theorem test_hyps_sending :
    let busy (urgent routine : Nat) := linked .up fun l =>
      { l with sending := some ⟨⟨.idle, []⟩, .fast⟩, urgent := (queued urgent 0).urgent, routine := (queued 0 routine).routine }
    ((after (.frameSendComplete .east) (busy 0 0)).linkAt .east).keepalive = some 1000 ∧
    ((after (.frameSendComplete .east) (busy 1 1)).linkAt .east).sending = some ⟨⟨.grant, [1]⟩, .fast⟩ ∧
    ((after (.frameSendComplete .east) (busy 0 1)).linkAt .east).sending = some ⟨⟨.spanNotice, [2]⟩, .fast⟩ ∧
    ((after (.keepaliveExpiry .east) (linked .up fun l => { l with keepalive := some 0 })).linkAt .east).sending =
      some ⟨⟨.idle, []⟩, .fast⟩ := by decide +kernel

/-- Frames go on while a hail sequence runs on: the keepalive's Idle, Ready after Pace, but not the pacer's first Pace. -/
theorem test_hyps_hailRunsOn :
    let hailing (state : LinkState) := linked state fun l => { l with keepalive := some 0, hail := some ⟨6, false⟩ }
    ((after (.keepaliveExpiry .east) (hailing .up)).linkAt .east).sending = some ⟨⟨.idle, []⟩, .fast⟩ ∧
    ((after (.paceFrameReceived .east .fast) (hailing .pacing)).linkAt .east).sending = some ⟨⟨.ready, []⟩, .fast⟩ ∧
    ((hailing .pacing).linkAt .east |>.startSending (hailing .pacing)).sending = none ∧
    ((after (.frameSendComplete .east) (onEast (fun l => { l with sending := some ⟨⟨.ready, []⟩, .fast⟩ })
      (hailing .readying))).linkAt .east).sending = some ⟨⟨.ready, []⟩, .fast⟩ := by decide +kernel

theorem test_hyps_agreeing :
    let sends (st : LinkState) (n : Nat) := linked st fun l =>
      { l with sending := some ⟨⟨.pace, []⟩, .fast⟩, answerPaces := n }
    ((after (.frameSendComplete .east) (sends .pacing 0)).linkAt .east).rateWindow = some 2000 ∧
    ((after (.frameSendComplete .east) (sends .readying 0)).linkAt .east).sending = some ⟨⟨.ready, []⟩, .fast⟩ ∧
    ((after (.frameSendComplete .east) (sends .readying 3)).linkAt .east).answerPaces = 2 ∧
    ((after (.frameSendComplete .east) (sends .down 0)).linkAt .east).sending = none := by decide +kernel

theorem test_hyps_loop :
    let test (sent : Nat) := linked .loop fun l =>
      { l with rate := some .slow, loopSent := sent, sending := some ⟨⟨.loopTest, [1]⟩, .slow⟩, loopReturn := some 0 }
    ((after (.loopTest [0]) (linked .down id)).linkAt .east).sending = some ⟨⟨.loopTest, [1]⟩, .slow⟩ ∧
    (after (.loopTest [0]) (linked .up id)).mgp.owed = [⟨.busy, [], false⟩] ∧
    ((after (.frameSendComplete .east) (test 14)).linkAt .east).sending = some ⟨⟨.loopTest, [16]⟩, .slow⟩ ∧
    ((after (.frameSendComplete .east) (test 15)).linkAt .east).loopReturn = some 1000 ∧
    ((after (.loopTestFrameReceived .east .slow 16) (test 16)).linkAt .east).loopReturned = 1 ∧
    (after (.loopReturnExpiry .east) (test 16)).mgp.events.map (·.body) = [.loopResult .east 0] := by decide +kernel

/-! ## Notice Relay and Ring View -/

/-- The worked rows of R71. -/
theorem test_newer : [newer 18 17, newer 3 250, newer 250 3, newer 137 10, newer 138 10, newer 40 40] =
    [true, true, false, true, false, false] := by decide +kernel

theorem test_segments :
    segmentMap (failed 2 (failed 5 (node 1 []))).nrv.ring = [0, 0, 0, 1, 1, 1, 0, 0] ∧
    segmentMap (failed 2 (node 1 [])).nrv.ring = List.replicate 8 0 := by decide +kernel

theorem test_hyps_refresh :
    let s := (node 1 []).setNrv { (node 1 []).nrv with refresh := ⟨some 0, none⟩ }
    s.ident = some ⟨1, 8⟩ ∧ s.nrv.own.get .east = some sampleReport ∧ due s (s.nrv.refresh.get .east) = true ∧
    ((after (.refreshExpiry .east) s).linkAt .west).sending = some ⟨⟨.spanNotice, [1, 0, 0, 1, 0, 2, 7]⟩, .fast⟩ := by
  decide +kernel

theorem test_hyps_freshness :
    let s := setGuard 6 .west (some 0) (setRemote 3 .westEnd (some { sampleReport with freshness := some 0 }) (node 1 []))
    remoteReport s 3 .westEnd = some { sampleReport with freshness := some 0 } ∧ due s (some 0) = true ∧
    (after (.freshnessExpiry 3 .westEnd) s).toCcl = [⟨none, false, [.status 3 .usable .unknown], none⟩] ∧
    due s (guardOf s 6 .west) = true := by decide +kernel

theorem test_hyps_spanNotice :
    let f (origin cond seq hops : Byte) : Frame := ⟨.spanNotice, [origin, 0, cond, 1, 0, seq, hops]⟩
    takeHeld FrameKind.isNotice ((holding (f 3 2 2 5) (node 1 [])).linkAt .east) =
      some (f 3 2 2 5, (node 1 []).linkAt .east) ∧
    decodeNotice (f 3 4 2 5).body = none ∧ decodeNotice (f 3 2 2 5).body = some ⟨3, .east, .cut, true, false, 2, 5⟩ ∧
    ((after (.spanNotice .east) (holding (f 3 2 2 5) (node 1 []))).linkAt .west).sending = some ⟨f 3 2 2 4, .fast⟩ ∧
    after (.spanNotice .east) (holding (f 3 2 1 5) (node 1 [])) = node 1 [] ∧
    after (.spanNotice .east) (holding (f 1 2 2 5) (node 1 [])) = node 1 [] := by decide +kernel

theorem test_hyps_restartNotice :
    let f : Frame := ⟨.restartNotice, [7, 23]⟩
    guardOf (node 1 []) 7 .east = none ∧ 7 < ((node 1 []).nrv.guards.get .east).length ∧
    (after (.restartNotice .east) (holding f (node 1 []))).toCcl =
      [⟨some 7, false, [.status 7 .usable .unknown, .status 6 .usable .unknown], none⟩] ∧
    due (node 1 []) (some 0) = true ∧ after (.restartNotice .east) (holding f (setGuard 7 .east (some 0) (node 1 []))) =
      setGuard 7 .east (some 0) (node 1 []) := by decide +kernel

/-- A node that does not know its identity. -/
def stranger : State :=
  (node 1 []).setPld { (node 1 []).pld with mode := .listen, plan := some { (node 1 []).plan with ident := none } }

theorem test_hyps_stranger : stranger.running = true ∧ stranger.ident = none ∧
    relayRecord (after (.spanNotice .east) (holding ⟨.spanNotice, [23, 0, 2, 1, 0, 2, 5]⟩ stranger)) 23 .east = some 2 ∧
    (after (.restartNotice .east) (holding ⟨.restartNotice, [23, 5]⟩ stranger)).mgp.events.map (·.body) =
      [.restartHeard 23 .east] := by decide +kernel

theorem test_hyps_firstUp :
    let s := onEast (fun l => { l with state := .readying, readyCount := 2 }) (((node 1 []).setLink .west .reset).setNrv
      { (node 1 []).nrv with
        own := ⟨some { sampleReport with linkUp := false }, some sampleReport⟩, restartSent := ⟨false, true⟩ })
    (s.linkAt .west).state ≠ .up ∧ s.nrv.restartSent.get .east = false ∧
    ((after (.readyFrameReceived .east .fast) s).linkAt .east).sending = some ⟨⟨.restartNotice, [1, 7]⟩, .fast⟩ ∧
    (after (.readyFrameReceived .east .fast) s).toCcl.getLast?.map (·.second) = some true := by decide +kernel

/-! ## Detour Planner -/

/-- The base orders of R118's table, their ends. -/
theorem test_baseOrder : (baseOrder 32 301).take 4 = [45, 46, 47, 32] ∧ (baseOrder 32 4095).take 2 = [47, 32] ∧
    (baseOrder 32 512).getLast? = some 47 := by decide +kernel

theorem test_hyps_planner : 1 ≤ (detourArc (node 1 []) (c301 .head)).length ∧
    (∀ i ∈ detourArc (node 1 []) (c301 .head), 1 ≤ ((node 1 []).plan.spans[i]?.map (·.length)).getD 0) ∧
    detourDelay (node 1 []) (c301 .head) = 2450 ∧ detourCost (node 1 []) (c301 .head) = 150 ∧
    ask (node 1 [c301 .head]) [301] 3 = .feasible [(301, 45)] := by decide +kernel

/-- A detour of delay 2450 and cost 150: the last ceiling and allowance that pass, and the first that fail. -/
theorem test_hyps_ceiling :
    let fault (ceiling allowance : Nat) := circuitFault (node 1 []) { c301 .head with ceiling := ceiling, allowance := allowance }
    segmentOf (node 1 []) 1 = segmentOf (node 1 []) 4 ∧ spanFault (node 1 []) (detourArc (node 1 []) (c301 .head)) = none ∧
    fault 0 0 = none ∧ fault 2450 150 = none ∧ fault 2449 149 = some .delayCeiling ∧ fault 2450 149 = some .reachAllowance ∧
    fault 0 149 = some .reachAllowance ∧
    circuitFault (setPort 2 { Port.reset false false with state := .fault } (node 1 [])) { c301 .head with ceiling := 2450 } =
      some .portFault := by decide +kernel

/-- Worked case 3 of chapter 7: the lane lists of circuit 147. -/
theorem test_laneList :
    let holder (id urgency rank prio : Nat) : Claim := ⟨id, 9, 9, .west, 0, urgency, rank, prio⟩
    let s := setLane .west 36 (.pending (holder 512 3 1 6) 9) (setLane .west 37 (.held (holder 88 3 2 5))
      (setLane .west 38 (.held (holder 260 1 1 7)) (setLane .west 40 (.pending (holder 30 3 2 2) 9) (node 1 []))))
    let lanes (count : Nat) (excluded : List Nat) := laneList s 3
      { c301 .head with id := 147, cls := .preplanned, preplanned := some 41, priority := 2, count := count, excluded := excluded }
    lanes 0 [] = [41, 35, 36, 38, 39, 42, 43, 44, 45, 46, 47, 32, 33, 34] ∧
    lanes 1 [41] = [35, 36, 38, 39, 42, 43, 44, 45, 46, 47, 32, 33, 34] ∧
    lanes 2 [41, 35] = [36, 38, 39, 42, 43, 44, 45, 46, 47, 32, 33, 34] := by decide +kernel

/-- Worked case 4: a bundle held back by its assignment order, and the same with empty excluded sets. -/
theorem test_bundleFailed :
    let taken : Claim := ⟨9, 9, 9, .west, 0, 3, 2, 7⟩
    let heads (excluded : List Nat) := [{ c301 .head with id := 520, bundle := 5 },
      { c301 .head with id := 523, bundle := 5, excluded := excluded }]
    let s (excluded : List Nat) := (List.range 14).foldl
      (fun s k => setLane .west (if k = 13 then 47 else 32 + k) (.held taken) s) (node 1 (heads excluded))
    ask (s [46]) [520, 523] 3 = .infeasible .bundleFailed ∧
    ask (s []) [520, 523] 3 = .feasible [(520, 45), (523, 46)] ∧
    ask (s [45, 46]) [523] 3 = .infeasible .noFreeLane := by decide +kernel

/-- The second table of worked case 2: a split, and the first span in order of travel that is not usable and unlocked. -/
theorem test_hyps_spanChecks :
    let set (i : Nat) (f : SpanEntry → SpanEntry) (s : State) := s.setNrv { s.nrv with ring := modifyAt i f s.nrv.ring }
    let s := failed 2 (node 1 [])
    let split := failed 6 s
    let lost := set 6 (fun e => { e with status := .unknown }) s
    circuitFault (split.setNrv { split.nrv with segments := segmentMap split.nrv.ring }) (c301 .head) = some .ringSplit ∧
    circuitFault (set 7 (fun e => { e with locked := true }) lost) (c301 .head) = some .spanLocked ∧
    circuitFault lost (c301 .head) = some .spanUnusable ∧
    detourArc s (c301 .head) = [0, 7] ++ 6 :: [5, 4] := by decide +kernel

theorem test_keys : Key.above ⟨3, 1, 2, 93⟩ ⟨3, 1, 2, 301⟩ = true ∧
    LaneEntry.takeable ⟨3, 1, 4, 301⟩ 1 (.held { claim301 with id := 93, urgency := 2 }) = true ∧
    LaneEntry.takeable ⟨3, 2, 4, 301⟩ 1 (.held { claim301 with id := 93, urgency := 3 }) = false := by decide +kernel

/-- Node 1 with some heads in CLAIMING and circuit 301 at the front of the claim queue. -/
def windowUsed (n : Nat) (s : State) : State :=
  (s.setCircuits ({ c301 .head with state := .queued } ::
    (List.range n).map fun k => { c301 .head with id := k, state := .claiming })).setQueue [⟨301, ⟨3, 1, 4, 301⟩⟩]

theorem test_hyps_window8 :
    let s (n : Nat) := windowUsed n (node 1 [])
    insertEntry ⟨9, ⟨2, 1, 4, 9⟩⟩ [⟨301, ⟨3, 1, 4, 301⟩⟩, ⟨302, ⟨2, 1, 4, 302⟩⟩] =
      [⟨301, ⟨3, 1, 4, 301⟩⟩, ⟨9, ⟨2, 1, 4, 9⟩⟩, ⟨302, ⟨2, 1, 4, 302⟩⟩] ∧
    slotsUsed (s 7) + 1 = 8 ∧ (settleOnce (s 7)).isSome = true ∧ slotsUsed (s 8) + 1 = 9 ∧ Settled (s 8) ∧
    ask (windowUsed 0 (setPort 2 { Port.reset false false with state := .fault } (node 1 []))) [301] 3 =
      .infeasible .portFault := by decide +kernel

/-! ## Circuit Logic -/

/-- A hand-off of one change of a span's status alone. -/
def hand (span : Nat) (old new : SpanStatus) : CclHand := ⟨none, false, [.status span old new], none⟩

/-- Node 1 with span 2 Failed and its change waiting at the Circuit Logic. -/
def cutAt2 (cs : List Circuit) : State := (failed 2 (node 1 cs)).setToCcl [hand 2 .usable .failed]

/-- Two heads of one bundle, with detour lanes 45 and 46. -/
def pair (f : Circuit → Circuit) : List Circuit :=
  [f { detoured .working with bundle := 3 },
   f { detoured .working with id := 302, bundle := 3, lane := 6, port := some 3, detour := some 46 }]

/-- The states of the records after a command. -/
def states (c : Instr) (s : State) : List CircuitState := (after c s).circuits.map (·.state)

/-- The reasons of the records after a command. -/
def reasons (c : Instr) (s : State) : List Reason := (after c s).circuits.map (·.reason)

theorem test_hyps_handOffs :
    Settled ((node 1 []).setToCcl [⟨none, true, [], none⟩]) ∧
    ([((⟨none, false, [], none⟩ : CclHand), Instr.cclSpanChange), (⟨none, false, [], some []⟩, .cclSegmentMap),
      (⟨some 3, true, [], some []⟩, .cclRestart), (⟨none, true, [], some []⟩, .cclSecondRestart)].all fun p =>
        after p.2 ((node 1 []).setToCcl [p.1]) = node 1 []) = true := by decide +kernel

/-- Hand-offs that concern no record of the node: at a head no map and no change of its arcs, at a tail another restart. -/
theorem test_hyps_unconcerned :
    let away := { c301 .head with state := .detoured, detour := some 45, tag := 1 }
    let s := (headAway .detoured).setToCcl [⟨some 2, false, [.locked 1 true], none⟩]
    let t := (node 4 [{ c301 .tail with state := .detoured, detour := some 45 }]).setToCcl
      [⟨some 3, true, [.status 1 .usable .failed], some []⟩]
    Settled s ∧ Settled t ∧ 1 ∉ detourArc s away ∧ 2 ∉ arcInner s.ring 1 4 .west ∧ 1 ∉ detourArc t (c301 .tail) ∧
    after .cclRestart s = s.setToCcl [] ∧ after .cclRestart t = t.setToCcl [] := by decide +kernel

/-- 10 R177: every circuit takes the restart before the first is evaluated: circuit 300, evaluated first, finds the lane that
the failed detour of circuit 301 frees. -/
theorem test_handTakenBeforeEvaluated :
    let held (id : Nat) : LaneEntry := .held { claim301 with id := id }
    let s := (List.range 16).foldl (fun s k => setLane .west (32 + k) (held (if k = 13 then 301 else 9)) s)
      (failed 2 (node 1 [{ c301 .head with id := 300, lane := 6, port := some 3 }, detoured .detoured]))
    states .cclRestart (s.setToCcl [⟨some 4, false, [.status 2 .usable .failed], none⟩]) = [.claiming, .stranded] ∧
    reasons .cclSpanChange (s.setToCcl [hand 2 .usable .failed]) = [.noFreeLane, .none] := by decide +kernel

theorem test_hyps_waiting :
    let s (cs : List Circuit) := (node 1 cs).setToCcl [hand 2 .failed .usable]
    let home (c : Circuit) : Circuit := { c with state := .detoured }
    let away := { detoured .waitRestore with waitToRestore := some 9 }
    2 ∈ workArc (s []) (c301 .head) ∧ arcFailed (s []) (detourArc (s []) (c301 .head)) = false ∧
    states .cclSpanChange (s [detoured .detoured]) = [.waitRestore] ∧
    arcUsable (cutAt2 []) (workArc (cutAt2 []) away) = false ∧ states .cclSpanChange (cutAt2 [away]) = [.detoured] ∧
    states .cclSpanChange (s (pair home)) = [.waitRestore, .waitRestore] ∧
    states .cclSpanChange (s (pair fun c => { home c with revertive := decide (c.id = 301) })) = [.detoured, .detoured] := by
  decide +kernel

/-- Node 4, the tail on its detour lane 45, its port IDLE there. -/
def tailAway : State :=
  let s := portIdle (some 301) (node 4 [{ c301 .tail with state := .detoured, detour := some 45, tag := 1, headNode := 1 }])
  setPort 2 { portAt s 2 with present := some 45 } s

theorem test_hyps_tailTurns :
    mayStepAtOnce tailAway 2 5 ∧ 7 ∈ detourArc tailAway (c301 .tail) ∧
    states .cclSpanChange (tailAway.setToCcl [hand 7 .usable .failed]) = [.reverting] ∧
    states .cclRestart (tailAway.setToCcl [⟨some 1, false, [], none⟩]) = [.reverting] := by decide +kernel

theorem test_hyps_cut :
    let s := cutAt2 [c301 .head]
    2 ∈ workArc s (c301 .head) ∧ statusOf s 2 = .failed ∧ (c301 .head).a = s.node ∧ ask s [301] 3 = .feasible [(301, 45)] ∧
    laneEntry s .west 45 = some .free ∧ (s.linkAt .west).state = .up ∧
    ((after .cclSpanChange s).linkAt .west).sending = some ⟨claimFrame m301 ⟨3, 1, 4, 301⟩ 5, .fast⟩ ∧
    reasons .cclSpanChange (cutAt2 [{ c301 .head with cls := .none }]) = [.noRestoration] := by
  decide +kernel

theorem test_hyps_cutBundle :
    ask (cutAt2 (pair id)) [301, 302] 3 = .feasible [(301, 45), (302, 46)] ∧
    states .cclSpanChange (cutAt2 (pair id)) = [.claiming, .claiming] ∧
    reasons .cclSpanChange (cutAt2 (pair fun c => if c.id = 302 then { c with cls := .none } else c)) =
      [.noRestoration, .noRestoration] := by decide +kernel

theorem test_hyps_revert :
    let s := headAway .waitRestore
    let due301 := s.setCircuits [{ detoured .waitRestore with waitToRestore := some 0 }]
    mayStepAtOnce s 2 5 ∧ arcUsable s (workArc s (detoured .waitRestore)) = true ∧
    7 ∈ detourArc s (detoured .detoured) ∧ wanted s [301] = none ∧
    states (.waitToRestoreExpiry 301) due301 = [.reverting] ∧
    states .cclRestart ((headAway .detoured).setToCcl [⟨some 4, false, [], none⟩]) = [.reverting] ∧
    states .cclSecondRestart ((headAway .retuning).setToCcl [⟨none, true, [], none⟩]) = [.reverting] ∧
    states .cclSpanChange ((failed 7 (headAway .detoured)).setToCcl [hand 7 .usable .failed]) = [.reverting] ∧
    states (.circuitRequestReturn [1, 45, 4]) (headAway .detoured) = [.reverting] ∧
    (after (.circuitRequestReturn [1, 45, 4]) ((headAway .detoured).setCircuits
      [{ detoured .detoured with request := .forced }])).circuits.map (fun c => (c.state, c.request)) =
        [(.reverting, .none)] := by
  decide +kernel

/-- Node 1 with the bundle, the ports of both members IDLE on other lanes than their working lanes. -/
def pairAway (f : Circuit → Circuit) : State :=
  let s := portIdle (some 301) (node 1 (pair f))
  setPort 3 { portAt s 3 with state := .idle, present := some 9, owner := some 302 }
    (setPort 2 { portAt s 2 with present := some 9 } s)

theorem test_hyps_revertBundle :
    let s := pairAway fun c => { c with state := .waitRestore, waitToRestore := some 0 }
    standsAway s 2 5 ∧ standsAway s 3 6 ∧ states (.waitToRestoreExpiry 301) s = [.reverting, .reverting] := by decide +kernel

theorem test_hyps_split :
    let c := { c301 .head with state := .queued }
    let split := failed 2 (failed 5 (node 1 [c]))
    let s := (((split.setNrv { split.nrv with segments := segmentMap split.nrv.ring }).setQueue
      [⟨301, ⟨3, 1, 4, 301⟩⟩])).setToCcl [⟨none, false, [.status 5 .usable .failed], some (segmentMap split.nrv.ring)⟩]
    cutStands s c = true ∧ segmentOf s 1 ≠ segmentOf s 4 ∧ reasons .cclSegmentMap s = [.ringSplit] := by decide +kernel

theorem test_hyps_timeout :
    let c := { detoured .claiming with claimTimeout := some 0, count := 2 }
    let s := failed 2 (node 1 [c])
    let both (a : Attempt) := failed 2 (node 1 (pair fun c =>
      { c with state := .claiming, claimTimeout := some 0, count := 2, attempt := if c.id = 301 then .open else a }))
    cutStands s c = true ∧ due s c.claimTimeout = true ∧
    reasons (.claimTimeoutExpiry 301) s = [.attemptsExhausted] ∧
    (after (.claimTimeoutExpiry 301) (both .open)).circuits.map (·.attempt) = [.timedOut, .open] ∧
    reasons (.claimTimeoutExpiry 301) (both .granted) = [.attemptsExhausted, .attemptsExhausted] := by decide +kernel

/-- A detour that fails while the working arc is cut, and faults of the port on the detour and in CLAIMING. -/
theorem test_hyps_strand :
    let c := detoured .detoured
    let s := (failed 7 (failed 2 (node 1 [c]))).setToCcl [hand 7 .usable .failed]
    7 ∈ detourArc s c ∧ cutStands s c = true ∧ circuitFault s c = some .spanUnusable ∧
    reasons .cclSpanChange s = [.spanUnusable] ∧ (headAway .detoured).inRun = true ∧
    (portAt (headAway .detoured) 2).owner = some 301 ∧
    reasons (.portFaultOnset 2) (headAway .detoured) = [.portFault] ∧
    (after (.portFaultOnset 2) (headAway .detoured)).circuits.map (·.parked) = [some 45] ∧
    (portAt (after (.portFaultOnset 2) (headAway .detoured)) 2).present = none ∧
    reasons (.portFaultOnset 2) (headAway .claiming) = [.portFault] := by decide +kernel

/-! ## Detour Claim Engine -/

/-- Node 7, a transit of the claim, with both entries of lane 45 in a state. -/
def transit (e : LaneEntry) : State := setLane .west 45 e (setLane .east 45 e (node 7 []))

theorem test_hyps_dceHandOffs :
    let locked := (node 7 []).setToDce [.locked 7 true]
    let held := transit (.held claim301)
    let passing := held.setLsd ((held.lsd.write .east 45 .pass none).write .west 45 .pass none)
    let cleaned := passing.setToDce [.status 5 .usable .failed]
    let restarted := passing.setToDce [.restart 1]
    laneEntry (after .dceLockedChange locked) .east 47 = some .blocked ∧ 5 ∈ arcSpans 8 1 4 .west ∧
    isTransit cleaned claim301 = true ∧ (cleaned.lsd.record .west 45).latest = .pass ∧
    laneEntry (after .selfClean cleaned) .east 45 = some .free ∧
    ((after .selfClean cleaned).lsd.record .west 45).latest = .block ∧
    after .selfClean ((node 7 []).setToDce [.status 5 .failed .usable]) = node 7 [] ∧
    laneEntry (after .dceRestart restarted) .west 45 = some .free := by decide +kernel

/-- Node 7 with a frame in the holding of its West link. -/
def holdingWest (f : Frame) (s : State) : State := s.setLink .west { s.linkAt .west with holding := [f] }

/-- The frame that a side's link sends after a command. -/
def sent (side : Side) (c : Instr) (s : State) : Option Frame := ((after c s).linkAt side).sending.map (·.frame)

/-- The state with its West link in DOWN. -/
def westDown (s : State) : State := s.setLink .west { s.linkAt .west with state := .down }

theorem test_hyps_transitClaim :
    let f := claimFrame m301 ⟨3, 1, 4, 301⟩ 4
    let s := holding f (node 7 [])
    let weaker : Claim := ⟨93, 2, 5, .west, 6, 2, 1, 4⟩
    let bumped := holding f (transit (.held weaker))
    decodeAttempted s f.body = some m301 ∧ decodeKey m301 f.body = some ⟨3, 1, 4, 301⟩ ∧ Settled s ∧
    transitFault s .east m301 ⟨3, 1, 4, 301⟩ 3 = none ∧ m301.dir = Side.east.other ∧
    sent .west (.detourClaim .east) s = some (claimFrame m301 ⟨3, 1, 4, 301⟩ 3) ∧
    sent .east (.detourClaim .east) (failed 5 s) = some (refusalFrame m301 .spanUnusable 7 2) ∧
    sent .east (.detourClaim .east) (westDown s) = some (refusalFrame m301 .linkDown 7 2) ∧
    transitFault bumped .east m301 ⟨3, 1, 4, 301⟩ 3 = none ∧
    sent .east (.detourClaim .east) bumped = some (refusalFrame (weaker.attempted 45) .preempted 7 3) ∧
    sent .west (.detourClaim .east) bumped = some (plainFrame .release (weaker.attempted 45) 2) := by
  decide +kernel

/-- 12 R197: a Refusal of reason 00h or 0Bh, and claims with a field outside its range, are discarded. -/
theorem test_hyps_discarded :
    let refusal (reason : Byte) : Frame := ⟨.refusal, m301.bytes ++ [reason, 5, 2]⟩
    let held := transit (.held claim301)
    after (.refusal .west) (holdingWest (refusal 0x0B) held) = held ∧
    after (.refusal .west) (holdingWest (refusal 0x00) held) = held ∧
    laneEntry (after (.refusal .west) (holdingWest (refusal 0x0A) held)) .east 45 = some .free ∧
    after (.detourClaim .east) (holding (claimFrame m301 ⟨4, 1, 4, 301⟩ 4) (node 7 [])) = node 7 [] ∧
    after (.detourClaim .east) (holding (claimFrame { m301 with tail := 8 } ⟨3, 1, 4, 301⟩ 4) (node 7 [])) = node 7 [] := by
  decide +kernel

theorem test_hyps_transitFrames :
    let pending := transit (.pending claim301 0)
    let held := transit (.held claim301)
    let granted := holdingWest (plainFrame .grant m301 2) pending
    let eastDown := granted.setLink .east { granted.linkAt .east with state := .down }
    laneEntry (after (.grant .west) granted) .east 45 = some (.held claim301) ∧
    sent .east (.grant .west) granted = some (plainFrame .grant m301 1) ∧
    isTransit eastDown claim301 = true ∧ sent .west (.grant .west) eastDown = some (plainFrame .release m301 3) ∧
    after (.grant .west) (holdingWest (plainFrame .grant m301 1) pending) = pending ∧
    after (.grant .west) (holdingWest (plainFrame .grant m301 2) (node 7 [])) = node 7 [] ∧
    laneEntry (after (.refusal .east) (holding (refusalFrame m301 .laneBusy 5 1) held)) .east 45 = some .free ∧
    sent .east (.refusal .west) (holdingWest (refusalFrame m301 .laneBusy 5 2) held) =
      some (refusalFrame m301 .laneBusy 5 1) ∧
    laneEntry (after (.release .east) (holding (plainFrame .release m301 4) pending)) .west 45 = some .free := by
  decide +kernel

/-- Frames back where they began, in RUN and at a node in LISTEN. -/
theorem test_hyps_otherFrames :
    let own : Attempted := { m301 with head := 7 }
    let listening := (node 7 []).setPld { (node 7 []).pld with mode := .listen }
    after (.detourClaim .east) (holding (claimFrame own ⟨3, 1, 4, 301⟩ 4) (node 7 [])) = node 7 [] ∧
    after (.refusal .east) (holding (refusalFrame { m301 with tail := 7 } .laneBusy 5 2) listening) = listening ∧
    sent .east (.detourClaim .east) (holding (claimFrame m301 ⟨3, 1, 4, 301⟩ 4) listening) =
      some (refusalFrame m301 .nodeUnplanned 7 (hopsToHead listening m301)) ∧
    after (.grant .east) (holding (plainFrame .grant m301 4) listening) = listening ∧
    after (.release .east) (holding (plainFrame .release m301 1) listening) = listening ∧
    sent .west (.release .east) (holding (plainFrame .release m301 2) listening) = some (plainFrame .release m301 1) := by
  decide +kernel

/-- A transit's pending expiry, and the head's own on its third attempt. -/
theorem test_hyps_pending :
    let pending := transit (.pending claim301 0)
    let s := failed 2 (setLane .west 45 (.pending claim301 0) (node 1 [{ detoured .claiming with count := 2 }]))
    due pending (some 0) = true ∧ claim301.head ≠ pending.node ∧ Settled pending ∧
    after (.pendingExpiry .east 45) pending = transit .free ∧
    cutStands s (detoured .claiming) = true ∧ claim301.head = s.node ∧ laneEntry s .east 45 = some .free ∧
    reasons (.pendingExpiry .west 45) s = [.attemptsExhausted] := by decide +kernel

theorem test_hyps_headGrant :
    let c := detoured .claiming
    let s := holding (plainFrame .grant m301 0) (setLane .west 45 (.pending claim301 9) (portIdle (some 301) (node 1 [c])))
    let held := setLane .west 45 (.held claim301) (node 1 [c])
    mayStepAtOnce s 2 45 ∧ decodeAttempted s (plainFrame .grant m301 0).body = some m301 ∧
    arcFailed s (detourArc s c) = false ∧ claim301.matches 301 1 1 = true ∧ states (.grant .east) s = [.retuning] ∧
    sent .west (.grant .east) (holding (plainFrame .grant m301 0) (node 1 [c])) = some (plainFrame .release m301 5) ∧
    after (.grant .east) (holding (plainFrame .grant m301 0) held) = held := by decide +kernel

theorem test_hyps_headRefusal :
    let refused (reason : Reason) (e : LaneEntry) (s : State) := holding (refusalFrame m301 reason 5 0) (setLane .west 45 e s)
    reasons (.refusal .east) (refused .unknownCircuit (.pending claim301 9) (node 1 [detoured .claiming])) =
      [.unknownCircuit] ∧
    after (.refusal .east) (refused .laneBusy .free (node 1 [detoured .claiming])) = node 1 [detoured .claiming] ∧
    wanted (headAway .detoured) [301] = none ∧
    states (.refusal .east) (refused .preempted (.held claim301) (headAway .detoured)) = [.reverting] ∧
    (let s := failed 7 (failed 2 (node 1 [detoured .detoured]))
     cutStands s (detoured .detoured) = true ∧ circuitFault s (detoured .detoured) = some .spanUnusable ∧
     (after (.refusal .east) (refused .preempted (.held claim301) s)).circuits.map (·.excluded) = [[45]]) := by
  decide +kernel

theorem test_hyps_tailRelease :
    let s := holding (plainFrame .release m301 0) (setLane .east 45 (.held claim301) tailAway)
    isTransit s claim301 = false ∧ mayStepAtOnce s 2 5 ∧ states (.release .east) s = [.reverting] ∧
    laneEntry (after (.release .east) s) .east 45 = some .free ∧
    states (.release .east) (s.setCircuits [c301 .tail]) = [.working] := by decide +kernel

theorem test_hyps_bundleEnds :
    let s (f : Frame) (e : LaneEntry) (g : Circuit → Circuit) := holding f (setLane .west 45 e (pairAway g))
    let claiming (a : Attempt) (c : Circuit) : Circuit :=
      { c with state := .claiming, attempt := if c.id = 301 then .open else a }
    let grant (a : Attempt) := s (plainFrame .grant m301 0) (.pending claim301 9) (claiming a)
    let lost := s (refusalFrame m301 .preempted 5 0) (.held claim301) fun c => { c with state := .detoured }
    (after (.grant .east) (grant .open)).circuits.map (·.attempt) = [.granted, .open] ∧
    standsAway (grant .granted) 2 45 ∧ standsAway (grant .granted) 3 46 ∧
    states (.grant .east) (grant .granted) = [.retuning, .retuning] ∧ wanted lost [301, 302] = none ∧
    states (.refusal .east) lost = [.reverting, .reverting] := by decide +kernel

/-- Node 4, the tail, with the claim in its East holding. -/
def tailNode : State := holding (claimFrame m301 ⟨3, 1, 4, 301⟩ 1) (portIdle (some 301) (node 4 [c301 .tail]))

theorem test_hyps_tailClaim : mayStepAtOnce tailNode 2 45 ∧ (c301 .tail).detourSide = .east ∧
    tailFault tailNode .east m301 ⟨3, 1, 4, 301⟩ = none ∧ laneEntry tailNode .east 45 = some .free ∧
    (after (.detourClaim .east) tailNode).circuits.map (·.state) = [.retuning] := by decide +kernel

/-- The seven checks of R136 and the six of R141, each failing first, at the bounds of the lane and the budget. -/
theorem test_claimChecks :
    let key : Key := ⟨3, 1, 4, 301⟩
    let strong : LaneEntry := .held { claim301 with id := 9 }
    let setEntry (i : Nat) (f : SpanEntry → SpanEntry) (s : State) := s.setNrv { s.nrv with ring := modifyAt i f s.nrv.ring }
    let fault (s : State) (lane hops : Nat) := transitFault s .east { m301 with lane := lane } key hops
    let s := node 7 []
    let tail (s : State) (lane : Nat) := tailFault s .east { m301 with lane := lane } key
    [fault s 31 0, fault s 48 1, fault s 32 0, fault (failed 0 s) 47 1,
      fault (setEntry 6 (fun e => { e with status := .unknown, locked := true }) s) 47 1,
      fault (setEntry 6 (fun e => { e with locked := true }) s) 47 1, fault (setLane .east 45 .blocked s) 45 1,
      fault (setLane .west 45 strong s) 45 1, fault s 32 1] =
      [some .laneNotSpare, some .laneNotSpare, some .hopExhausted, some .spanUnusable, some .spanUnusable, some .spanLocked,
        some .spanLocked, some .laneBusy, none] ∧
    [tail tailNode 31, tail (node 4 []) 32, tail (failed 0 tailNode) 47,
      tail (setPort 2 { portAt tailNode 2 with state := .fault } (setLane .east 45 .blocked tailNode)) 45,
      tail (setLane .east 45 .blocked tailNode) 45, tail (setLane .east 45 strong tailNode) 45, tail tailNode 47] =
      [some .laneNotSpare, some .unknownCircuit, some .spanUnusable, some .portFault, some .spanLocked, some .laneBusy,
        none] ∧
    (sent .east (.detourClaim .east) (failed 0 tailNode)) = some (refusalFrame m301 .spanUnusable 4 5) := by decide +kernel

theorem test_hyps_tailClear (side : Side) (lane : Nat) (x : Claim) : claimAt tailNode side lane ≠ some x := by
  have free (y : Side) : tailNode.lanes.get y = List.replicate 16 .free := by cases y <;> rfl
  simp only [claimAt, laneEntry, free]
  split <;> simp only [List.getElem?_replicate, Option.bind_none]
  · split <;> simp [LaneEntry.claim]
  · simp

/-! ## Lane Switch Driver and Tunable Port Controller -/

/-- A write waits on the bus list, LSACK not ready. -/
def written : State := laneWrite .east 45 .pass none (node 1 [])

theorem test_hyps_bus :
    let moving := after (.lsackReady true) written
    let settling := { after .busTransferEnd moving with clock := 500 }
    written.lsd.bus = [⟨.east, 45, .pass⟩] ∧ moving.lsd.transfer = some ⟨.east, 45, .pass⟩ ∧
    (settling.lsd.record .east 45).phase = .settling ∧ due settling (settling.lsd.record .east 45).settle = true ∧
    ((after (.settleExpiry .east 45) settling).lsd.record .east 45).setting = .pass := by decide +kernel

theorem test_hyps_told :
    let settling (c : Circuit) (side : Side) (lane : Nat) : State :=
      let s := node 4 [c]
      s.setLsd (s.lsd.setRecord side lane ⟨.block, some (.addDrop 2), .settling, some 0, [301]⟩)
    let there := { c301 .tail with state := .retuning, detour := some 45, retuned := true }
    let home := { c301 .tail with state := .reverting, detour := some 45, retuned := true }
    there.detourSide = .east ∧ home.workSide = .west ∧
    (after (.settleExpiry .east 45) (settling there .east 45)).circuits.map (·.state) = [.detoured] ∧
    (after (.settleExpiry .west 5) (settling home .west 5)).circuits.map (·.state) = [.working] ∧
    (let head := { detoured .reverting with retuned := true }
     let s := node 1 [head]
     let s := s.setLsd (s.lsd.setRecord .east 5 ⟨.block, some (.addDrop 2), .settling, some 0, [301]⟩)
     head.workSide = .east ∧ wanted s [301] = none ∧ states (.settleExpiry .east 5) s = [.working]) := by decide +kernel

theorem test_hyps_homing :
    let s (n : Nat) := portInSlot .homing { Port.reset false false with homeCount := n } (node 1 [])
    due (s 59) (stepDeadline (s 59) 2) = true ∧ Settled (s 59) ∧
    (portAt (after (.homingStepExpiry 2) (s 59)) 2).homeCount = 60 ∧
    (portAt (after (.homingStepExpiry 2) (s 60)) 2).state = .fault ∧
    (portAt (after (.homeIndication 2 true) (s 60)) 2).present = some 0 ∧
    (portAt (after (.homeIndication 2 true)
      (portInSlot .homing { Port.reset false false with target := some 5 } (node 1 []))) 2).state = .stepping := by
  decide +kernel

theorem test_hyps_stepping :
    let s := portInSlot .stepping { Port.reset false false with present := some 5, target := some 7 } (node 1 [])
    let last := portInSlot .stepping { Port.reset false false with present := some 1, target := some 0 } (node 1 [])
    (portAt (after (.stepExpiry 2) s) 2).present = some 6 ∧ (portAt (after (.stepExpiry 2) last) 2).state = .idle ∧
    (after (.stepExpiry 2) last).tpc.slots = List.replicate 4 .free := by decide +kernel

/-- A port with an owner: it arrives as the second completion of a reversion, or as the first; it homes and goes on to the
working lane; it faults. -/
theorem test_hyps_ownedPort :
    let owned (p : Port) (st : PortState) (c : Circuit) := portInSlot st { p with owner := some 301 } (node 1 [c])
    let step := owned { Port.reset false false with present := some 6, target := some 5 } .stepping
    let home := owned (.reset false false) .homing (c301 .head)
    (home.tpc.holds 2 = 1 ∧ wanted home [301] = none) ∧
    states (.stepExpiry 2) (step { detoured .reverting with inEffect := true }) = [.working] ∧
    (after (.stepExpiry 2) (step (detoured .reverting))).circuits.map (·.retuned) = [true] ∧
    states (.stepExpiry 2) (step { detoured .retuning with detour := some 5, revertive := false, inEffect := true }) =
      [.detoured] ∧
    (portAt (after (.homeIndication 2 true) home) 2).target = some 5 ∧
    (portAt (after (.homeIndication 2 true) home) 2).state = .stepping ∧
    states (.portFaultOnset 2) home = [.working] ∧ (portAt (after (.portFaultOnset 2) home) 2).state = .fault := by
  decide +kernel

theorem test_hyps_portFault :
    (after (.portFaultOnset 11) (node 1 [])).mgp.events.map (·.body) = [.portFault 11 .unhomed] ∧
    (portAt (after (.portFaultEnd 11) (after (.portFaultOnset 11) (node 1 []))) 11).state = .fault ∧
    (portAt (after (.portFaultOnset 11) State.reset) 11).state = .unhomed := by decide +kernel

theorem test_hyps_rehome : portParam [11] = some 11 ∧ freeSlotIndex (node 1 []) = some 0 ∧
    (portAt (after (.rehomePort [11]) (node 1 [])) 11).state = .homing ∧
    (after (.rehomePort [2]) (headAway .detoured)).mgp.owed = [⟨.busy, [], false⟩] ∧
    (after (.rehomePort [2]) stranger).mgp.owed = [⟨.listening, [], false⟩] := by decide +kernel

/-! ## Management Port -/

/-- The status of the newest owed response. -/
def status (c : Instr) (s : State) : Option Status := (after c s).mgp.owed.getLast?.map (·.status)

theorem test_hyps_queries :
    let s := node 1 [c301 .head]
    ([Instr.statusQuery [], .spanQuery [7], .circuitQuery [1, 45], .planQuery [1, 45], .circuitFind [0, 0, 255, 255],
      .laneQuery [0, 47], .portQuery [11]].map fun c => status c s) = List.replicate 7 (some .done) ∧
    ([Instr.spanQuery [8], .laneQuery [0, 31], .circuitQuery [1, 44], .planQuery [1, 44], .circuitFind [1, 255, 255, 255]].map
      fun c => status c s) = [some .badParameter, some .badParameter, some .unknownId, some .unknownId, some .noMatch] ∧
    status (.spanQuery [1]) stranger = some .done ∧ status (.spanQuery [2]) stranger = some .badParameter := by
  decide +kernel

/-- 12 R199: the bytes of Circuit Query for a head on its detour and for a tail, of Lane Query, and of a set of lanes. -/
theorem test_queryBytes :
    circuitData { detoured .detoured with request := .forced, excluded := [0, 47], waitToRestore := some 0x010203 } =
      [1, 45, 1, 4, 0, 5, 0, 0, 1, 1, 1, 255, 4, 0, 1, 0, 0, 0, 0, 2, 4, 2, 45, 255, 1, 0, 0x80, 0, 0, 0, 0, 1] ++
        List.replicate 6 255 ++ [0, 0, 0, 1, 2, 3, 255, 0] ∧
    circuitData (c301 .tail) = [1, 45, 1, 4, 0, 5, 1, 1, 0, 1, 1, 255, 4, 0, 1, 0, 0, 0, 0, 2, 0, 255, 255, 255, 0] ++
      List.replicate 19 255 ++ [1, 255] ∧
    laneData (.pending claim301 0x0A0B) = [2, 1, 45, 1, 4, 1, 1, 3, 1, 4, 0, 0, 0, 0, 0x0A, 0x0B] ∧
    planData { c301 .head with ceiling := 258, allowance := 500 } =
      [1, 45, 1, 4, 0, 5, 1, 255, 4, 0, 1, 1, 2, 1, 244, 2] := by decide +kernel

/-- A working head that the planner answers with a port fault. -/
def faultyHead : State :=
  setPort 2 { Port.reset false false with state := .fault } (node 1 [c301 .head])

theorem test_hyps_requests :
    requestParams 0x01 [1, 45, 1] = some 301 ∧ cutStands faultyHead (c301 .head) = false ∧
    degradeStands faultyHead (c301 .head) = false ∧ circuitFault faultyHead (c301 .head) = some .portFault ∧
    (after (.circuitRequestPin [1, 45, 1]) faultyHead).circuits.map (·.request) = [.pin] ∧
    (after (.circuitRequestForced [1, 45, 2]) faultyHead).circuits.map (·.reason) = [.portFault] ∧
    (after (.circuitRequestManual [1, 45, 3]) faultyHead).mgp.events.map (·.body) =
      [.circuitState 301 .stranded .working .portFault, .manualWithdrawn 301, .circuitState 301 .working .stranded .none] ∧
    status (.circuitRequestClear [1, 45, 5]) faultyHead = some .done := by decide +kernel

theorem test_hyps_requestRefusals :
    status (.circuitRequestForced [1, 44, 2]) faultyHead = some .unknownId ∧
    status (.circuitRequestPin [1, 45, 1]) tailNode = some .notHead ∧
    status (.circuitRequestForced [1, 45, 2]) (node 1 [{ c301 .head with cls := .none }]) = some .notRestorable ∧
    status (.circuitRequestReturn [1, 45, 4]) faultyHead = some .notDetoured ∧
    status (.circuitRequestReturn [1, 45, 4]) (failed 2 (headAway .detoured)) = some .workingUnusable := by decide +kernel

theorem test_hyps_classes :
    let c := { c301 .head with cls := .preplanned, planClass := .preplanned, request := .forced }
    let s := node 1 [c]
    (after (.demote [1, 45, 1]) s).circuits.map (·.cls) = [.opportunistic] ∧
    (after (.demote [1, 45, 0]) s).circuits.map (·.request) = [.none] ∧
    status (.demote [1, 45, 2]) s = some .badParameter ∧ status (.demote [1, 44, 0]) s = some .unknownId ∧
    status (.demote [1, 45, 0]) tailNode = some .notHead ∧
    (after (.restorePlan []) (node 1 [{ c301 .head with cls := .none }])).circuits.map (·.cls) = [.opportunistic] ∧
    wanted (node 1 [c301 .head]) (groupOf (node 1 [c301 .head]) (c301 .head)) = none := by decide +kernel

/-- Demote to None away from WORKING: from the detour, the claim, the queue and a stranding, without and with a Cut. -/
theorem test_hyps_broughtBack :
    let demoted (s : State) := states (.demote [1, 45, 0]) s
    let queued := (node 1 [{ c301 .head with state := .queued }]).setQueue [⟨301, ⟨0, 1, 4, 301⟩⟩]
    let claiming := node 1 [detoured .claiming]
    mayStepAtOnce (headAway .detoured) 2 5 ∧ demoted (headAway .detoured) = [.reverting] ∧ demoted queued = [.working] ∧
    demoted (failed 2 queued) = [.stranded] ∧ reasons (.demote [1, 45, 0]) (failed 2 queued) = [.noRestoration] ∧
    demoted (node 1 [{ c301 .head with state := .stranded, reason := .portFault }]) = [.working] ∧
    demoted claiming = [.working] ∧
    sent .west (.demote [1, 45, 0]) claiming = some (plainFrame .release m301 5) ∧
    reasons (.demote [1, 45, 0]) (failed 2 claiming) = [.noRestoration] := by decide +kernel

theorem test_demotionList :
    recordDemotion [] ⟨1, .none⟩ [⟨1, .opportunistic⟩, ⟨2, .none⟩] = [⟨1, .none⟩, ⟨2, .none⟩] ∧
    recordDemotion [c301 .head] ⟨1, .none⟩ (⟨301, .none⟩ :: List.replicate 191 ⟨5, .none⟩) =
      ⟨301, .none⟩ :: (List.replicate 190 ⟨5, .none⟩ ++ [⟨1, .none⟩]) := by decide +kernel

theorem test_hyps_judgement :
    let owing (n : Nat) := (node 1 []).setMgp { Mgp.reset with owed := List.replicate n ⟨.busy, [], false⟩ }
    status (.laneQuery [0, 45]) (owing 254) = some .busy ∧ after (.laneQuery [0, 45]) (owing 255) = owing 255 ∧
    status (.badFrame .badCheck) State.reset = some .badFrame ∧
    status (.badFrame .unknownCode) State.reset = some .invalidCommand ∧
    status (.freezePlan []) State.reset = some .notReady ∧ status (.statusQuery [1]) State.reset = some .badParameter ∧
    paramsBad (.demote [1, 45, 3]) = true ∧
    (after .responseSendComplete (after (.warmReset []) (node 1 []))).mgp.resetDue = true := by decide +kernel

/-- A queue of some events, the Overflow marker after them. -/
def overflowed (n : Nat) : List Event := (List.range n).map (fun i => ⟨i, .portHomed 0⟩) ++ [⟨n, .overflow 1⟩]

theorem test_hyps_events : EventsLawful 7 (overflowed 7) ∧ (∃ e ∈ (overflowed 7).take 8, e.isMarker = true) ∧
    (after (.fetchEvents []) ((node 1 []).setMgp { Mgp.reset with events := overflowed 8 })).mgp.events = [⟨8, .overflow 1⟩] ∧
    joinEvents 63 (.portHomed 1) ((overflowed 63).dropLast) = overflowed 63 ∧ (overflowed 63).length = 64 :=
  ⟨⟨by decide +kernel, by decide +kernel, by decide +kernel, by decide +kernel, by decide +kernel⟩, by decide +kernel,
    by decide +kernel, by decide +kernel, by decide +kernel⟩

end Sys2Proof.Tests
end

section
/-! SUPPORT. Proofs for the node clock, the deadlines and the laws (02): what arming a deadline and judging it give, and that
every step keeps the laws. -/

namespace Sys2Proof.Machine

/-! ## Deadlines (02 R21, R22) -/

/-- 02 R21: an armed deadline holds the clock plus the duration, at most the largest count. -/
theorem arm_eq (s : State) (duration : Nat) : arm s duration = some (min (s.clock + duration) Config.maxTick) := rfl

@[simp] theorem due_none (s : State) : due s none = false := rfl

theorem due_some_iff (s : State) (value : Nat) : due s (some value) = true ↔ value ≤ s.clock := by
  simp only [due, decide_eq_true_eq]

/-- A deadline just armed is due when the value that it holds is not ahead of the clock. -/
theorem due_arm_iff (s : State) (duration : Nat) :
    due s (arm s duration) = true ↔ min (s.clock + duration) Config.maxTick ≤ s.clock := by
  rw [arm_eq, due_some_iff]

theorem due_arm_zero (s : State) : due s (arm s 0) = true := (due_arm_iff s 0).2 (Nat.min_le_left _ _)

/-- At the largest count no deadline can be armed ahead of the clock. -/
theorem due_arm_of_clock_eq_maxTick {s : State} (largest : s.clock = Config.maxTick) (duration : Nat) :
    due s (arm s duration) = true :=
  (due_arm_iff s duration).2 (largest ▸ Nat.min_le_right _ _)

/-- Settles O11, from the rule of arming and the rule of falling due. -/
theorem deadlinesArmAndFallDue : Obligations.DeadlinesArmAndFallDue := fun s duration value =>
  ⟨arm_eq s duration, due_none s, due_some_iff s value, due_arm_zero s,
    fun largest => due_arm_of_clock_eq_maxTick largest duration⟩

/-! ## Every step keeps the laws -/

theorem AnswersTamely.lawfully {o : Host.Outcome State Fault Refusal} {s : State} (h : AnswersTamely o s) :
    AnswersLawfully o s := h.kept.lawfully

/-- Every command answers a next state that keeps the waiting commands and the laws, by the lemma about its meaning. -/
theorem exec_answersLawfully (c : Instr) (s : State) : AnswersLawfully (exec c s) s :=
  match c with
  | .powerOnReset => execPowerOnReset_lawful s
  | .pinReset => execPinReset_lawful s
  | .commandReset => execCommandReset_lawful s
  | .clockTick => execClockTick_lawful s
  | .startDelayExpiry => (execStartDelayExpiry_kept s).lawfully
  | .headerReadComplete bytes => (execHeaderReadComplete_kept bytes s).lawfully
  | .imageReadComplete bytes => (execImageReadComplete_kept bytes s).lawfully
  | .lightChange side present => (execLightChange_tame side present s).lawfully
  | .frameLockChange side locked => (execFrameLockChange_tame side locked s).lawfully
  | .erroredBlockPulse side => (execErroredBlockPulse_tame side s).lawfully
  | .holdOffExpiry side => (execHoldOffExpiry_tame side s).lawfully
  | .clearSoakExpiry side => (execClearSoakExpiry_tame side s).lawfully
  | .windowBoundaryExpiry side => (execWindowBoundaryExpiry_tame side s).lawfully
  | .hailSequenceExpiry side => (execHailSequenceExpiry_tame side s).lawfully
  | .hailBurstExpiry side => (execHailBurstExpiry_tame side s).lawfully
  | .hailAnswerGuardExpiry side => (execHailAnswerGuardExpiry_tame side s).lawfully
  | .receivedBurstStart side => (execReceivedBurstStart_tame side s).lawfully
  | .receivedBurstEnd side => (execReceivedBurstEnd_tame side s).lawfully
  | .hailGapLimitExpiry side => (execHailGapLimitExpiry_tame side s).lawfully
  | .rateWindowExpiry side => (execRateWindowExpiry_tame side s).lawfully
  | .listeningExpiry side => (execListeningExpiry_tame side s).lawfully
  | .readyingExpiry side => (execReadyingExpiry_tame side s).lawfully
  | .failedHoldExpiry side => (execFailedHoldExpiry_tame side s).lawfully
  | .silenceExpiry side => (execSilenceExpiry_tame side s).lawfully
  | .keepaliveExpiry side => (execKeepaliveExpiry_tame side s).lawfully
  | .loopReturnExpiry side => (execLoopReturnExpiry_tame side s).lawfully
  | .paceFrameReceived side rate => (execPaceFrameReceived_tame side rate s).lawfully
  | .readyFrameReceived side rate => (execReadyFrameReceived_tame side rate s).lawfully
  | .idleFrameReceived side rate => (execIdleFrameReceived_tame side rate s).lawfully
  | .loopTestFrameReceived side rate seq => (execLoopTestFrameReceived_tame side rate seq s).lawfully
  | .heldFrameReceived side rate frame => (execHeldFrameReceived_tame side rate frame s).lawfully
  | .erroredFrame side error => (execErroredFrame_tame side error s).lawfully
  | .frameSendComplete side => (execFrameSendComplete_tame side s).lawfully
  | .refreshExpiry side => (execRefreshExpiry_tame side s).lawfully
  | .freshnessExpiry span theEnd => (execFreshnessExpiry_tame span theEnd s).lawfully
  | .restartGuardExpiry origin side => (execRestartGuardExpiry_tame origin side s).lawfully
  | .spanNotice side => (execSpanNotice_tame side s).lawfully
  | .restartNotice side => (execRestartNotice_tame side s).lawfully
  | .cclSpanChange => (execCclSpanChange_tame s).lawfully
  | .cclSegmentMap => (execCclSegmentMap_tame s).lawfully
  | .cclRestart => (execCclRestart_tame s).lawfully
  | .cclSecondRestart => (execCclSecondRestart_tame s).lawfully
  | .dceLockedChange => (execDceLockedChange_tame s).lawfully
  | .selfClean => (execSelfClean_tame s).lawfully
  | .dceRestart => (execDceRestart_tame s).lawfully
  | .claimTimeoutExpiry id => (execClaimTimeoutExpiry_tame id s).lawfully
  | .waitToRestoreExpiry id => (execWaitToRestoreExpiry_tame id s).lawfully
  | .detourClaim side => (execDetourClaim_tame side s).lawfully
  | .grant side => (execGrant_tame side s).lawfully
  | .refusal side => (execRefusal_tame side s).lawfully
  | .release side => (execRelease_tame side s).lawfully
  | .pendingExpiry side lane => (execPendingExpiry_tame side lane s).lawfully
  | .lsackReady ready => (execLsackReady_tame ready s).lawfully
  | .busTransferEnd => (execBusTransferEnd_tame s).lawfully
  | .settleExpiry side lane => (execSettleExpiry_tame side lane s).lawfully
  | .homingStepExpiry port => (execHomingStepExpiry_tame port s).lawfully
  | .stepExpiry port => (execStepExpiry_tame port s).lawfully
  | .homeIndication port asserted => (execHomeIndication_tame port asserted s).lawfully
  | .portFaultOnset port => (execPortFaultOnset_tame port s).lawfully
  | .portFaultEnd port => (execPortFaultEnd_tame port s).lawfully
  | .statusQuery params => (execStatusQuery_tame params s).lawfully
  | .spanQuery params => (execSpanQuery_tame params s).lawfully
  | .circuitQuery params => (execCircuitQuery_tame params s).lawfully
  | .circuitFind params => (execCircuitFind_tame params s).lawfully
  | .laneQuery params => (execLaneQuery_tame params s).lawfully
  | .portQuery params => (execPortQuery_tame params s).lawfully
  | .planQuery params => (execPlanQuery_tame params s).lawfully
  | .circuitRequestPin params => (execCircuitRequestPin_tame params s).lawfully
  | .circuitRequestForced params => (execCircuitRequestForced_tame params s).lawfully
  | .circuitRequestManual params => (execCircuitRequestManual_tame params s).lawfully
  | .circuitRequestReturn params => (execCircuitRequestReturn_tame params s).lawfully
  | .circuitRequestClear params => (execCircuitRequestClear_tame params s).lawfully
  | .setForcedOut params => (execSetForcedOut_tame params s).lawfully
  | .clearForcedOut params => (execClearForcedOut_tame params s).lawfully
  | .setSparesLocked params => (execSetSparesLocked_tame params s).lawfully
  | .clearSparesLocked params => (execClearSparesLocked_tame params s).lawfully
  | .demote params => (execDemote_kept params s).lawfully
  | .restorePlan params => (execRestorePlan_kept params s).lawfully
  | .freezePlan params => (execFreezePlan_kept params s).lawfully
  | .rehomePort params => (execRehomePort_tame params s).lawfully
  | .loopTest params => (execLoopTest_tame params s).lawfully
  | .fetchEvents params => (execFetchEvents_tame params s).lawfully
  | .warmReset params => (execWarmReset_tame params s).lawfully
  | .badFrame why => (execBadFrame_tame why s).lawfully
  | .responseSendComplete => (execResponseSendComplete_tame s).lawfully
  | .rstnAsserted => execRstnAsserted_lawful s

theorem exec_preserves_lawful {c : Instr} {s t : State} (l : Lawful s) (h : exec c s = .next t) : Lawful t := by
  obtain ⟨u, answered, -, kept⟩ := exec_answersLawfully c s
  obtain rfl : u = t := Host.Outcome.next.inj (answered.symm.trans h)
  exact kept l

/-- No law speaks of the commands that wait. -/
theorem Lawful.setPending {s : State} (l : Lawful s) (rest : List Instr) : Lawful { s with pending := rest } :=
  ⟨l.events, l.clock, l.links, l.window, l.reset, l.circuits, l.ports, l.map, l.queue⟩

/-- What a step that answers a next state has done: nothing, with no command waiting (Log 3), or the front command on the
state with the queue's rest. -/
theorem step_next_cases {s t : State} (h : step s = .next t) :
    (s.pending = [] ∧ t = s) ∨
      ∃ c rest, s.pending = c :: rest ∧ exec c { s with pending := rest } = .next t := by
  unfold step at h
  split at h
  next empty => exact .inl ⟨empty, (Host.Outcome.next.inj h).symm⟩
  next c rest waiting => exact .inr ⟨c, rest, waiting, h⟩

/-- Settles O4: a step idles or executes the front command, and every command keeps the laws. -/
theorem everyStepKeepsTheLaws : Obligations.EveryStepKeepsTheLaws := by
  intro s t l h
  obtain ⟨-, rfl⟩ | ⟨c, rest, -, executed⟩ := step_next_cases h
  · exact l
  · exact exec_preserves_lawful (l.setPending rest) executed

end Sys2Proof.Machine
end

section
/-! SUPPORT. Proofs for the Span Monitors (03): what an indication makes of the state, one equation for each state of a monitor
that an onset, an end of the raw fault or a window boundary acts in, and what the two operator flags report. -/

namespace Sys2Proof.Machine

/-- A command that ends in a declaration answers a state in which the declaration has its effects (R41, R42). -/
theorem exec_declares {c : Instr} {side : Side} {m : Monitor} {s : State} (h : exec c s = .next (declare side m s)) :
    ∃ t, exec c s = .next t ∧ Declares side m s t :=
  ⟨_, h, declare_declares side m s⟩

/-- R41: nothing is declared anew where the declared condition is already what the flag and the own condition give. -/
theorem declare_of_declared {side : Side} {m : Monitor} {s : State} (h : m.declared = some m.declares) :
    declare side m s = s.setMon side m := by
  have stored : { m with declared := some m.declares } = m := by rw [← h]
  simp only [declare, stored]
  rw [h, if_pos (Option.getD_some ..)]

/-! ## Raw fault (R28) -/

/-- Both input indications come to a monitor as its new levels. -/
theorem exec_indication {s : State} {side : Side} {level : Bool} {c : Instr} {m : Monitor}
    (h : c = .lightChange side level ∧ m = { s.monAt side with light := level } ∨
      c = .frameLockChange side level ∧ m = { s.monAt side with lock := level }) :
    exec c s = .next (indicate side m s) := by
  obtain ⟨rfl, rfl⟩ | ⟨rfl, rfl⟩ := h
  · rfl
  · rfl

theorem indicate_recorded {side : Side} {m : Monitor} {s : State}
    (h : s.running = false ∨ m.rawFault = (s.monAt side).rawFault) : indicate side m s = s.setMon side m := by
  obtain stopped | same := h
  · simp [indicate, stopped]
  · simp [indicate, same]

theorem indicate_onset {side : Side} {m : Monitor} {s : State} (running : s.running = true)
    (before : (s.monAt side).rawFault = false) (now : m.rawFault = true) :
    indicate side m s = declare side (m.onset s) s := by
  simp [indicate, running, before, now]

theorem indicate_faultEnd {side : Side} {m : Monitor} {s : State} (running : s.running = true)
    (before : (s.monAt side).rawFault = true) (now : m.rawFault = false) :
    indicate side m s = declare side (m.faultEnd s) s := by
  simp [indicate, running, before, now]

/-! ## Onset and end by state (R32 to R35) -/

theorem Monitor.onset_clear {m : Monitor} {s : State} (h : m.state = .clear) (held : s.plan.holdOff ≠ 0) :
    m.onset s = { m with state := .holdoff, holdOff := arm s s.plan.holdOff } := by
  simp only [Monitor.onset, h, if_neg held]

theorem Monitor.onset_clear_atOnce {m : Monitor} {s : State} (h : m.state = .clear) (atOnce : s.plan.holdOff = 0) :
    m.onset s = m.enterCut := by
  simp only [Monitor.onset, h, if_pos atOnce]

theorem Monitor.onset_soak {m : Monitor} {s : State} (h : m.state = .soak) : m.onset s = m.enterCut := by
  simp only [Monitor.onset, h]

theorem Monitor.faultEnd_holdoff {m : Monitor} {s : State} (h : m.state = .holdoff) : m.faultEnd s = m.enterClear := by
  simp only [Monitor.faultEnd, h]

theorem Monitor.faultEnd_cut {m : Monitor} {s : State} (h : m.state = .cut) :
    m.faultEnd s = { m with state := .soak, soak := arm s s.plan.soak } := by
  simp only [Monitor.faultEnd, h]

/-- Settles O18: the indication is recorded alone, or its onset or end goes to the monitor's state. -/
theorem rawFaultByState : Obligations.RawFaultByState := by
  intro s side level c m indication
  have answered := exec_indication indication
  refine ⟨fun h => ?recorded, fun running before now => ⟨fun clear held => ?holds, fun clear atOnce => ?cuts,
    fun soak => ?cutsAgain⟩, fun running before now holdoff => ?ends⟩
  case recorded => rw [answered, indicate_recorded h]
  case holds =>
    refine exec_declares ?_
    rw [answered, indicate_onset running before now, Monitor.onset_clear clear held]
  case cuts =>
    refine exec_declares (m := m.enterCut) ?_
    rw [answered, indicate_onset running before now, Monitor.onset_clear_atOnce clear atOnce]
  case cutsAgain =>
    refine exec_declares (m := m.enterCut) ?_
    rw [answered, indicate_onset running before now, Monitor.onset_soak soak]
  case ends =>
    refine exec_declares (m := m.enterClear) ?_
    rw [answered, indicate_faultEnd running before now, Monitor.faultEnd_holdoff holdoff]

/-- Settles O19: the end in CUT is declared as the soaking monitor, whose own condition and flag are as they were. -/
theorem rawFaultEndInCutSoaks : Obligations.RawFaultEndInCutSoaks := by
  intro s side c m running before now cut indication soaking
  have answered : exec c s = .next (declare side soaking s) := by
    rw [exec_indication indication, indicate_faultEnd running before now, Monitor.faultEnd_cut cut]
  refine ⟨exec_declares answered, fun declared => ?_⟩
  have unmoved : soaking.declared = some soaking.declares := declared
  rw [answered, declare_of_declared unmoved]

/-! ## Expiries (R33, R35) -/

theorem exec_holdOffExpiry {s : State} {side : Side} (running : s.running = true) (holdoff : (s.monAt side).state = .holdoff)
    (expired : due s (s.monAt side).holdOff = true) :
    exec (.holdOffExpiry side) s = .next (declare side (s.monAt side).enterCut s) :=
  congrArg Host.Outcome.next (if_pos (by simp only [running, holdoff, expired, decide_true, Bool.and_self]))

theorem exec_clearSoakExpiry {s : State} {side : Side} (running : s.running = true) (soak : (s.monAt side).state = .soak)
    (expired : due s (s.monAt side).soak = true) :
    exec (.clearSoakExpiry side) s = .next (declare side (s.monAt side).enterClear s) :=
  congrArg Host.Outcome.next (if_pos (by simp only [running, soak, expired, decide_true, Bool.and_self]))

/-- Settles O20: each expiry that is due in its state is a declaration of the state entered. -/
theorem holdOffAndSoakExpiries : Obligations.HoldOffAndSoakExpiries := fun _ _ running =>
  ⟨fun holdoff expired => exec_declares (exec_holdOffExpiry running holdoff expired),
    fun soak expired => exec_declares (exec_clearSoakExpiry running soak expired)⟩

/-! ## Degrade windows (R36 to R38) -/

theorem exec_erroredBlockPulse {s : State} {side : Side} (running : s.running = true) :
    exec (.erroredBlockPulse side) s =
      .next (s.setMon side { s.monAt side with windowCount := countUp 65535 (s.monAt side).windowCount }) :=
  congrArg Host.Outcome.next (if_pos running)

theorem exec_windowBoundaryExpiry {s : State} {side : Side} (running : s.running = true)
    (expired : due s (s.monAt side).window = true) :
    exec (.windowBoundaryExpiry side) s = .next (declare side ((s.monAt side).boundary s) s) :=
  congrArg Host.Outcome.next (if_pos (by simp only [running, expired, Bool.and_self]))

/-- R37: a bad window lengthens the bad run alone, and sets the indication at the limit. -/
theorem Monitor.judgeWindow_bad {threshold limit : Nat} {m : Monitor} (bad : threshold ≤ m.windowCount) :
    m.judgeWindow threshold limit =
      { m with
        goodRun := 0, badRun := countUp limit m.badRun,
        degraded := m.degraded || countUp limit m.badRun = limit } :=
  if_pos bad

/-- R37: a good window lengthens the good run alone, and clears the indication at the limit. -/
theorem Monitor.judgeWindow_good {threshold limit : Nat} {m : Monitor} (good : ¬ threshold ≤ m.windowCount) :
    m.judgeWindow threshold limit =
      { m with
        badRun := 0, goodRun := countUp limit m.goodRun,
        degraded := m.degraded && countUp limit m.goodRun ≠ limit } :=
  if_neg good

/-- R38: the own condition alone may follow the indication. -/
theorem Monitor.followIndication_eq (m : Monitor) :
    m.followIndication = { m with own := if m.state = .clear then m.clearOwn else m.own } := by
  unfold Monitor.followIndication
  split
  · rfl
  · rfl

/-- Settles O21: a pulse counts up, and a boundary is a declaration of the monitor as its window judges it. -/
theorem erroredBlocksAreJudgedByWindow : Obligations.ErroredBlocksAreJudgedByWindow := by
  refine ⟨fun s side running => exec_erroredBlockPulse running, fun s side running expired => ?_⟩
  intro m limit bad badRun goodRun degraded
  have judged : m.judgeWindow s.plan.degradeThreshold limit =
      { m with badRun := badRun, goodRun := goodRun, degraded := degraded } := by
    by_cases h : bad
    · have lengthened : badRun = countUp limit m.badRun := if_pos h
      have restarted : goodRun = 0 := if_pos h
      have indication : degraded = (m.degraded || badRun = limit) := if_pos h
      rw [Monitor.judgeWindow_bad h, indication, lengthened, restarted]
    · have lengthened : goodRun = countUp limit m.goodRun := if_neg h
      have restarted : badRun = 0 := if_neg h
      have indication : degraded = (m.degraded && goodRun ≠ limit) := if_neg h
      rw [Monitor.judgeWindow_good h, indication, lengthened, restarted]
  refine exec_declares ?_
  rw [exec_windowBoundaryExpiry running expired, Monitor.boundary, judged, Monitor.followIndication_eq]
  rfl

/-! ## Operator flags (R39 to R41) -/

/-- 11 R181: a Management Port that takes commands lets a frame's command act. -/
theorem command_of_takesCommands {s : State} (takes : s.takesCommands) (inStart : Bool) (act : State → State) :
    command inStart act s = act s := by
  obtain ⟨out, owed, noReset, started⟩ := takes
  simp [command, occupied, out, owed, noReset, started]

/-- 12.4: the parameters of a Span Flags command name their side. -/
theorem flagParams_sideCode (flag action : Byte) (side : Side) :
    flagParams flag action [byte side.code, flag, action] = some side := by
  cases side <;> simp [flagParams, Side.code, Side.ofCode, byte]

/-- A Span Flags command with the bytes of its flag and action acts on the side that they name. -/
theorem command_spanFlags {s : State} (takes : s.takesCommands) (flag action : Byte) (side : Side)
    (act : Side → State → State) :
    command false (withParams (flagParams flag action [byte side.code, flag, action]) act) s = act side s := by
  rw [command_of_takesCommands takes, flagParams_sideCode]
  rfl

/-- Settles O22: either command declares the monitor with its flag as set, and answers Done. -/
theorem forcedOutFlagIsDeclared : Obligations.ForcedOutFlagIsDeclared := fun s side takes =>
  ⟨⟨_, declare_declares side { s.monAt side with forcedOut := true } s,
      congrArg Host.Outcome.next (command_spanFlags takes 0x00 0x01 side _)⟩,
    ⟨_, declare_declares side { s.monAt side with forcedOut := false } s,
      congrArg Host.Outcome.next (command_spanFlags takes 0x00 0x00 side _)⟩⟩

/-- Both Spares Locked commands set the flag as they say and answer Done. -/
theorem exec_sparesLocked {s : State} {side : Side} {set : Bool} {c : Instr} (takes : s.takesCommands)
    (h : c = .setSparesLocked [byte side.code, 0x01, 0x01] ∧ set = true ∨
      c = .clearSparesLocked [byte side.code, 0x01, 0x00] ∧ set = false) :
    exec c s = .next (owe ⟨.done, [], false⟩ (setLocked side set s)) := by
  obtain ⟨rfl, rfl⟩ | ⟨rfl, rfl⟩ := h
  · exact congrArg Host.Outcome.next (command_spanFlags takes 0x01 0x01 side _)
  · exact congrArg Host.Outcome.next (command_spanFlags takes 0x01 0x00 side _)

theorem setLocked_of_eq {s : State} {side : Side} {set : Bool} (h : (s.monAt side).sparesLocked = set) :
    setLocked side set s = s :=
  if_pos h

/-- R40: a change of the flag is stored and reported with the declared condition as it is. -/
theorem setLocked_of_ne {s : State} {side : Side} {set : Bool} (h : (s.monAt side).sparesLocked ≠ set) :
    setLocked side set s =
      monitorReport side ((s.monAt side).declared.getD .clear) set
        (s.setMon side { s.monAt side with sparesLocked := set }) :=
  if_neg h

/-- Settles O23: the flag is stored in the monitor, and the rest is a monitor's report to NRV. -/
theorem sparesLockedFlagIsReported : Obligations.SparesLockedFlagIsReported := by
  intro s side set c takes request
  have answered := exec_sparesLocked takes request
  refine ⟨fun same => ?_, fun changed => ⟨_, answered, ?_⟩⟩
  · rw [answered, setLocked_of_eq same]
  · rw [setLocked_of_ne changed]
    have relayed := relayed_monitorReport side ((s.monAt side).declared.getD .clear) set
      (s.setMon side { s.monAt side with sparesLocked := set })
    refine ⟨(noticed_setMon side _ s).trans relayed.noticed, ?monitor, ?other, ?events, ?report⟩
    case monitor => rw [State.monAt, relayed.mon]; exact State.setMon_monAt_same ..
    case other => rw [State.monAt, relayed.mon]; exact Both.get_set_other ..
    case events => rw [relayed.mgp]; rfl
    case report =>
      intro r own
      obtain ⟨q, reported, condition, linkUp, locked⟩ := monitorReport_own side
        ((s.monAt side).declared.getD .clear) set (s.setMon side { s.monAt side with sparesLocked := set }) r own
      exact ⟨q, reported, locked, linkUp, condition⟩

end Sys2Proof.Machine
end

section
/-! SUPPORT. Proofs for the Span Links on the way to an agreed rate (04): what a free line sends next, hails sent and received,
the falling back of a link that waits, and Pace frames. -/

namespace Sys2Proof.Machine

variable {s : State} {side : Side} {l : Link}

/-! ## What a free line sends next (R50 to R52, R59, R63) -/

theorem Link.startSending_of_busy (busy : l.sending ≠ none) : l.startSending s = l :=
  if_pos (by rw [Option.isSome_iff_ne_none.2 busy, Bool.true_or])

theorem Link.startSending_of_free (free : l.sending = none) (begins : l.state ≠ .pacing ∨ l.hail = none) :
    l.startSending s = l.sendNext s := by
  refine if_neg ?_
  obtain notPacing | noHail := begins
  · simp [free, notPacing]
  · simp [free, noHail]

theorem Link.sendNext_pacing (h : l.state = .pacing) :
    l.sendNext s =
      { l with
        rateWindow := if l.rateWindow = none then arm s 2000 else l.rateWindow,
        sending := some ⟨⟨.pace, []⟩, l.rate.getD .slow⟩ } := by
  simp only [Link.sendNext, h, Link.send, Option.isNone_iff_eq_none, Config.rateWindow]

theorem Link.sendNext_readying (h : l.state = .readying) :
    l.sendNext s =
      { l with
        answerPaces := l.answerPaces - 1,
        sending := some ⟨⟨if l.answerPaces = 0 then .ready else .pace, []⟩, l.rate.getD .slow⟩ } := by
  simp only [Link.sendNext, h, Link.send]
  by_cases answered : l.answerPaces = 0
  · simp only [answered, if_true, Nat.zero_sub]
  · simp only [answered, if_false]

/-- A free line in READYING begins a frame also while a hail sequence runs on. -/
theorem Link.startSending_readying (h : l.state = .readying) (free : l.sending = none) :
    l.startSending s =
      { l with
        answerPaces := l.answerPaces - 1,
        sending := some ⟨⟨if l.answerPaces = 0 then .ready else .pace, []⟩, l.rate.getD .slow⟩ } := by
  have notPacing : l.state ≠ .pacing := by simp [h]
  rw [Link.startSending_of_free free (.inl notPacing), Link.sendNext_readying h]

theorem Link.sendNext_up_empty (h : l.state = .up) (urgent : l.urgent = []) (routine : l.routine = []) :
    l.sendNext s = l := by
  simp only [Link.sendNext, h, urgent, routine]

theorem Link.sendNext_up_urgent (h : l.state = .up) {f : Frame} {rest : List Frame} (urgent : l.urgent = f :: rest) :
    l.sendNext s = { l with urgent := rest, sending := some ⟨f, l.rate.getD .slow⟩ } := by
  simp only [Link.sendNext, h, urgent, Link.send]

theorem Link.sendNext_up_routine (h : l.state = .up) (urgent : l.urgent = []) {f : Frame} {rest : List Frame}
    (routine : l.routine = f :: rest) :
    l.sendNext s = { l with routine := rest, sending := some ⟨f, l.rate.getD .slow⟩ } := by
  simp only [Link.sendNext, h, urgent, routine, Link.send]

theorem Link.sendNext_loop (h : l.state = .loop) (more : l.loopSent < 16) :
    l.sendNext s = { l with sending := some ⟨⟨.loopTest, [byte (l.loopSent + 1)]⟩, l.rate.getD .slow⟩ } := by
  simp only [Link.sendNext, h, Link.send, Config.loopFrames, more, if_true]

theorem Link.sendNext_loop_done (h : l.state = .loop) (all : ¬ l.loopSent < 16) : l.sendNext s = l := by
  simp only [Link.sendNext, h, Config.loopFrames, all, if_false]

theorem Link.sendNext_silent (h : l.state = .down ∨ l.state = .listening ∨ l.state = .failed) : l.sendNext s = l := by
  obtain h | h | h := h
  · simp only [Link.sendNext, h]
  · simp only [Link.sendNext, h]
  · simp only [Link.sendNext, h]

/-- A line that is busy, or whose link sends nothing in its state, begins no frame. -/
theorem Link.startSending_of_still
    (h : l.state = .down ∨ l.state = .listening ∨ l.state = .failed ∨ l.sending ≠ none) : l.startSending s = l := by
  by_cases free : l.sending = none
  · have silent : l.state = .down ∨ l.state = .listening ∨ l.state = .failed := by simpa [free] using h
    have notPacing : l.state ≠ .pacing := by obtain h | h | h := silent <;> simp [h]
    rw [Link.startSending_of_free free (.inl notPacing), Link.sendNext_silent silent]
  · exact Link.startSending_of_busy free

/-- The beginning of a frame touches the transmit half of a link alone. -/
theorem Link.startSending_only (s : State) (l : Link) :
    ∃ urgent routine answerPaces rateWindow sending, l.startSending s =
      { l with
        urgent := urgent, routine := routine, answerPaces := answerPaces, rateWindow := rateWindow, sending := sending } := by
  unfold Link.startSending Link.sendNext Link.send
  repeat' split
  all_goals exact ⟨_, _, _, _, _, rfl⟩

/-! ## Expiries -/

theorem onLinkExpiry_of_due {state : LinkState} {deadline : Link → Deadline} {act : Link → State → State}
    (running : s.running = true) (here : (s.linkAt side).state = state) (expired : due s (deadline (s.linkAt side)) = true) :
    onLinkExpiry side state deadline act s = act (s.linkAt side) s :=
  if_pos (by simp only [running, here, expired, decide_true, Bool.and_self])

theorem exec_hailBurstExpiry (running : s.running = true) (expired : due s (s.linkAt side).hailBurst = true) :
    exec (.hailBurstExpiry side) s = .next (s.setLink side ((s.linkAt side).hailOn s)) :=
  congrArg Host.Outcome.next (if_pos (by simp only [running, expired, Bool.and_self]))

theorem exec_hailAnswerGuardExpiry (running : s.running = true) (expired : due s (s.linkAt side).answerGuard = true) :
    exec (.hailAnswerGuardExpiry side) s = .next (s.setLink side { s.linkAt side with answerGuard := none }) :=
  congrArg Host.Outcome.next (if_pos (by simp only [running, expired, Bool.and_self]))

/-! ## Sending a hail (R47, R49) -/

theorem Link.hailOn_gap {burst : Nat} (h : l.hail = some ⟨burst, true⟩) :
    l.hailOn s = { l with hail := some ⟨burst + 1, false⟩, hailBurst := arm s 100 } := by
  simp only [Link.hailOn, h, if_true, Config.hailBurst]

theorem Link.hailOn_burst {burst : Nat} (h : l.hail = some ⟨burst, false⟩) (more : burst < 6) :
    l.hailOn s = { l with hail := some ⟨burst, true⟩, hailBurst := arm s 300 } := by
  simp only [Link.hailOn, h, Bool.false_eq_true, if_false, Config.hailBursts, more, if_true, Config.hailGap]

/-- The link whose hail sequence has ended. -/
def Link.endHail (s : State) (l : Link) : Link := { l with hail := none, hailBurst := none, answerGuard := arm s 1000 }

theorem Link.hailOn_last (h : l.hail = some ⟨6, false⟩) : l.hailOn s = (l.endHail s).startSending s := by
  simp only [Link.hailOn, h, Bool.false_eq_true, if_false, Config.hailBursts, Nat.lt_irrefl, Config.answerGuard,
    Link.endHail]

/-- R49: the end of the sequence lets the pacer's first Pace frame begin. -/
theorem Link.hailOn_last_pacing (h : l.hail = some ⟨6, false⟩) (pacing : l.state = .pacing) (free : l.sending = none)
    (noWindow : l.rateWindow = none) :
    l.hailOn s =
      { l.endHail s with rateWindow := arm s 2000, sending := some ⟨⟨.pace, []⟩, l.rate.getD .slow⟩ } := by
  have window : (l.endHail s).rateWindow = none := noWindow
  rw [Link.hailOn_last h, Link.startSending_of_free (l := l.endHail s) free (.inr rfl),
    Link.sendNext_pacing (l := l.endHail s) pacing, if_pos window]
  rfl

/-- Settles O24: the sequence deadline's expiry, and the burst deadline's by where the sequence stands. -/
theorem hailSequenceRuns : Obligations.HailSequenceRuns := by
  intro s side running l
  refine ⟨fun down expired => ?starts, fun burst gap expired => ?burst, fun burst more sounding expired => ?gap,
    fun last expired still => ?ends, fun last expired pacing free noWindow rate atRate => ?paces,
    exec_hailAnswerGuardExpiry running⟩
  case starts => exact congrArg Host.Outcome.next (onLinkExpiry_of_due running down expired)
  case burst => rw [exec_hailBurstExpiry running expired, Link.hailOn_gap gap]
  case gap => rw [exec_hailBurstExpiry running expired, Link.hailOn_burst sounding more]
  case ends =>
    rw [exec_hailBurstExpiry running expired, Link.hailOn_last last, Link.startSending_of_still (l := l.endHail s) still]
    rfl
  case paces =>
    have current : l.rate.getD .slow = rate := by rw [atRate, Option.getD_some]
    rw [exec_hailBurstExpiry running expired, Link.hailOn_last_pacing last pacing free noWindow, current]
    rfl

/-! ## Receiving a hail (R48, R49) -/

theorem exec_receivedBurstStart (running : s.running = true) (down : (s.linkAt side).state = .down) :
    exec (.receivedBurstStart side) s = .next (s.setLink side ((s.linkAt side).burstStart s)) :=
  congrArg Host.Outcome.next (if_pos (by simp only [running, down, decide_true, Bool.and_self]))

theorem exec_receivedBurstEnd (running : s.running = true) (down : (s.linkAt side).state = .down) :
    exec (.receivedBurstEnd side) s = .next (s.setLink side ((s.linkAt side).burstEnd s side)) :=
  congrArg Host.Outcome.next (if_pos (by simp only [running, down, decide_true, Bool.and_self]))

theorem Link.burstStart_short {ended : Nat} (last : l.lastBurstEnd = some ended) (counting : 0 < l.hailCount)
    (short : s.clock < ended + 150) : l.burstStart s = { l with hailCount := 0, gapLimit := none } := by
  simp only [Link.burstStart, last, Config.minGap, counting, short, decide_true, Bool.and_self, if_true]

/-- A first burst, or one after a gap that is long enough, leaves the count as it is. -/
theorem Link.burstStart_long (h : l.hailCount = 0 ∨ l.lastBurstEnd = none ∨
    (∃ ended, l.lastBurstEnd = some ended ∧ ended + 150 ≤ s.clock)) : l.burstStart s = { l with gapLimit := none } := by
  obtain first | first | ⟨ended, last, long⟩ := h
  · simp only [Link.burstStart, first, ite_self]
  · simp only [Link.burstStart, first, Bool.false_eq_true, if_false]
  · simp only [Link.burstStart, last, Config.minGap, Nat.not_lt.2 long, decide_false, Bool.and_false, Bool.false_eq_true,
      if_false]

/-- The link with a received burst counted. -/
def Link.countBurst (s : State) (l : Link) : Link :=
  { l with hailCount := l.hailCount + 1, lastBurstEnd := some s.clock, gapLimit := arm s 450 }

theorem Link.burstEnd_few (few : l.hailCount < 3) : l.burstEnd s side = l.countBurst s :=
  if_neg (by simp only [Config.hailCount]; omega)

theorem Link.burstEnd_fourth (fourth : 3 ≤ l.hailCount) : l.burstEnd s side = (l.countBurst s).recognize s side :=
  if_pos (by simp only [Config.hailCount]; omega)

theorem Link.answerHail_eq (s : State) (l : Link) :
    l.answerHail s =
      { l with
        hail := if l.hail = none ∧ l.answerGuard = none then some ⟨1, false⟩ else l.hail,
        hailBurst := if l.hail = none ∧ l.answerGuard = none then arm s 100 else l.hailBurst } := by
  by_cases answers : l.hail = none ∧ l.answerGuard = none
  · simp only [Link.answerHail, guarding, answers, Option.isSome_none, Bool.or_self, Bool.false_eq_true, if_false,
      Link.startHail, Config.hailBurst, and_self, if_true]
  · rw [if_neg answers, if_neg answers]
    refine if_pos ?_
    rw [guarding, Bool.or_eq_true, Option.isSome_iff_ne_none, Option.isSome_iff_ne_none]
    exact Decidable.not_and_iff_or_not.1 answers

/-- R49: whether a recognized hail is answered by a sequence. -/
theorem Link.answerHail_answers (s : State) (l : Link) :
    if l.hail = none ∧ l.answerGuard = none then
      (l.answerHail s).hail = some ⟨1, false⟩ ∧ (l.answerHail s).hailBurst = arm s 100
    else (l.answerHail s).hail = l.hail ∧ (l.answerHail s).hailBurst = l.hailBurst := by
  rw [Link.answerHail_eq]
  split
  · exact ⟨rfl, rfl⟩
  · exact ⟨rfl, rfl⟩

theorem Link.answerHail_rates (s : State) (l : Link) :
    (l.answerHail s).topRate = l.topRate ∧ (l.answerHail s).rate = l.rate := by
  rw [Link.answerHail_eq]
  exact ⟨rfl, rfl⟩

/-- R49: a pacer that has recognized a hail is in PACING at its top rate; what it sends touches the transmit half alone. -/
theorem Link.recognize_east (s : State) (l : Link) :
    ∃ urgent routine answerPaces rateWindow sending, l.recognize s .east =
      { l.answerHail s with
        state := .pacing, rx := .hunting, rate := (l.answerHail s).topRate, hailSeq := none, gapLimit := none, hailCount := 0,
        urgent := urgent, routine := routine, answerPaces := answerPaces, rateWindow := rateWindow, sending := sending } :=
  Link.startSending_only s _

theorem Link.recognize_west (s : State) (l : Link) :
    l.recognize s .west =
      { l.answerHail s with
        state := .listening, rx := .hunting, listening := arm s 20000, hailSeq := none, gapLimit := none, hailCount := 0 } :=
  rfl

/-- Settles O25: the expiry and the two ends of a burst by the count, and the recognition by the link's role. -/
theorem receivedBurstsMakeAHail : Obligations.ReceivedBurstsMakeAHail := by
  intro s side running down l
  refine ⟨fun ended last counting short => ?short, fun long => ?long, fun few => ?counted, fun expired => ?forgotten,
    fun fourth => ?hail⟩
  case short => rw [exec_receivedBurstStart running down, Link.burstStart_short last counting short]
  case long => rw [exec_receivedBurstStart running down, Link.burstStart_long long]
  case counted => rw [exec_receivedBurstEnd running down, Link.burstEnd_few few]; rfl
  case forgotten => exact congrArg Host.Outcome.next (onLinkExpiry_of_due running down expired)
  case hail =>
    have answered := exec_receivedBurstEnd running down
    rw [Link.burstEnd_fourth fourth] at answered
    refine ⟨_, answered, by rw [State.setLink_linkAt_same], ?_⟩
    rw [State.setLink_linkAt_same]
    cases side
    case east =>
      obtain ⟨urgent, routine, answerPaces, rateWindow, sending, recognized⟩ := Link.recognize_east s (l.countBurst s)
      rw [recognized]
      exact ⟨rfl, rfl, rfl, fun _ => ⟨rfl, (Link.answerHail_rates s (l.countBurst s)).1⟩,
        fun west => Side.noConfusion west, Link.answerHail_answers s (l.countBurst s)⟩
    case west =>
      rw [Link.recognize_west]
      exact ⟨rfl, rfl, rfl, fun east => Side.noConfusion east,
        fun _ => ⟨rfl, rfl, (Link.answerHail_rates s (l.countBurst s)).2⟩,
        Link.answerHail_answers s (l.countBurst s)⟩

/-! ## Falling back (R49 to R52, R62) -/

theorem Link.stepDown_lower {rate lower : Rate} (h : l.rate = some rate) (next : rate.lower = some lower) :
    l.stepDown s = { l with rate := some lower, rateWindow := arm s 2000, rx := .hunting } := by
  simp only [Link.stepDown, h, Option.getD_some, next, Config.rateWindow]

theorem Link.stepDown_slow (h : l.rate = some .slow) : l.stepDown s = l.enterFailed s := by
  simp only [Link.stepDown, h, Option.getD_some, Rate.lower]

theorem exec_rateWindowExpiry (running : s.running = true) (pacing : (s.linkAt side).state = .pacing)
    (expired : due s (s.linkAt side).rateWindow = true) :
    exec (.rateWindowExpiry side) s = .next (s.setLink side ((s.linkAt side).stepDown s)) :=
  congrArg Host.Outcome.next (onLinkExpiry_of_due running pacing expired)

/-- Settles O26: three expiries enter DOWN, and the rate window's steps down by the rate. -/
theorem waitingLinksFallBack : Obligations.WaitingLinksFallBack := by
  intro s side running l down
  refine ⟨fun listening expired => congrArg Host.Outcome.next (onLinkExpiry_of_due running listening expired),
    fun readying expired => congrArg Host.Outcome.next (onLinkExpiry_of_due running readying expired),
    fun failed expired => congrArg Host.Outcome.next (onLinkExpiry_of_due running failed expired),
    fun pacing expired => ?_⟩
  have answered := exec_rateWindowExpiry running pacing expired
  refine ⟨fun fast => ?_, fun middle => ?_, fun slow => ?_⟩
  · rw [answered, Link.stepDown_lower fast rfl]
  · rw [answered, Link.stepDown_lower middle rfl]
  · rw [answered, Link.stepDown_slow slow]; rfl

/-! ## Pace frames (R50 to R52, R56) -/

theorem exec_paceFrameReceived {rate : Rate} (running : s.running = true) :
    exec (.paceFrameReceived side rate) s = .next (takePace side rate s) :=
  congrArg Host.Outcome.next (if_pos running)

theorem takePace_pacing {rate : Rate} (pacing : (s.linkAt side).state = .pacing) (current : (s.linkAt side).rate = some rate) :
    takePace side rate s = s.setLink side ((s.linkAt side).enterReadying s rate 0) := by
  simp only [takePace, pacing, current, if_true]

theorem takePace_listening {rate top : Rate} (listening : (s.linkAt side).state = .listening)
    (topRate : (s.linkAt side).topRate = some top) (within : rate.rank ≤ top.rank) :
    takePace side rate s = s.setLink side ((s.linkAt side).enterReadying s rate 3) := by
  simp only [takePace, listening, topRate, Option.any_some, within, decide_true, if_true]

theorem takePace_readying {rate : Rate} (readying : (s.linkAt side).state = .readying)
    (current : (s.linkAt side).rate = some rate) :
    takePace side rate s = s.setLink side { s.linkAt side with readyCount := 0 } := by
  simp only [takePace, readying, current, if_true]

theorem takePace_up {rate : Rate} (up : (s.linkAt side).state = .up) (current : (s.linkAt side).rate = some rate) :
    takePace side rate s = s.setLink side ((s.linkAt side).heard s) := by
  simp only [takePace, up, current, if_true]

/-- R50, R51: the link that enters READYING; a free line begins the first of the frames it owes, also while a hail sequence
runs on. -/
theorem Link.enterReadying_eq (s : State) (rate : Rate) (owed : Nat) (l : Link) :
    l.enterReadying s rate owed =
      { l with
        state := .readying, rx := .hunting, rate := some rate, rateWindow := none, listening := none, readyCount := 0,
        readying := arm s 10000,
        answerPaces := if l.sending = none then owed - 1 else owed,
        sending := if l.sending = none then some ⟨⟨if owed = 0 then .ready else .pace, []⟩, rate⟩ else l.sending } := by
  by_cases free : l.sending = none
  · rw [if_pos free, if_pos free]
    exact Link.startSending_readying (by rfl) (by exact free)
  · rw [if_neg free, if_neg free]
    exact Link.startSending_of_busy free

/-- Settles O27: a Pace frame is taken by the link's state, and READYING is entered as `Link.enterReadying_eq` says. -/
theorem paceFrameByState : Obligations.PaceFrameByState := by
  intro s side rate running l readies
  have answered : exec (.paceFrameReceived side rate) s = _ := exec_paceFrameReceived running
  have entered (owed : Nat) : readies owed (s.setLink side (l.enterReadying s rate owed)) := by
    simp only [readies, State.setLink_linkAt_same, Link.enterReadying_eq, true_and]
    exact fun free => ⟨if_pos free, if_pos free⟩
  refine ⟨fun pacing current => ⟨_, answered, ?_⟩, fun top listening topRate within => ⟨_, answered, ?_⟩,
    fun readying current => ?_, fun up current => ?_⟩
  · rw [takePace_pacing pacing current]; exact entered 0
  · rw [takePace_listening listening topRate within]; exact entered 3
  · rw [answered, takePace_readying readying current]
  · rw [answered, takePace_up up current]; rfl

end Sys2Proof.Machine
end

section
/-! SUPPORT. Proofs for the Span Links in UP and on the way there (04): valid and errored frames, entering and leaving UP with
what NRV is told, the transmit queue, the completions, and the loop test. -/

namespace Sys2Proof.Machine

variable {s : State} {side : Side} {l : Link}

/-! ## A link's report to NRV (R53) -/

/-- No operation of NRV touches a link that is not in UP (R61). -/
theorem Noticed.linkAt_of_not_up {s t : State} (h : Noticed s t) {side : Side} (off : (s.linkAt side).state ≠ .up) :
    t.linkAt side = s.linkAt side :=
  (h.links side).idle off

/-- What a link that changes its state and posts the change leaves, once NRV has taken its report. -/
theorem Relayed.afterLinkState {body : EventBody} {t : State} (h : Relayed (post body (s.setLink side l)) t) {linkUp : Bool}
    (reported : ReportsLink side linkUp (post body (s.setLink side l)) t) :
    Noticed (post body (s.setLink side l)) t ∧ t.mon = s.mon ∧ t.mgp.events = joinEvents s.clock body s.mgp.events ∧
      ReportsLink side linkUp s t :=
  ⟨h.noticed, h.mon, congrArg Mgp.events h.mgp, reported⟩

/-- The link as it enters UP. -/
def Link.raised (s : State) (l : Link) : Link :=
  { l.enter .up with
    answerPaces := 0, readying := none, errorRun := 0, silence := arm s 5000, keepalive := arm s 1000 }

theorem enterUp_setLink (side : Side) (l : Link) (s : State) :
    enterUp side (s.setLink side l) =
      linkReportsUp side
        (post (.linkState side .up .readying (l.rate.getD .slow) .none) (s.setLink side (l.raised s))) := by
  simp only [enterUp, State.setLink_linkAt_same, State.setLink_setLink]
  rfl

/-- The link as it leaves UP: in DOWN, its queues and its holding emptied. -/
def Link.lowered (s : State) (l : Link) : Link := ({ l with urgent := [], routine := [], holding := [] } : Link).enterDown s

theorem leaveUp_setLink (side : Side) (cause : LinkCause) (l : Link) (s : State) :
    leaveUp side cause (s.setLink side l) =
      linkStatus side false
        (post (.linkState side .down .up (l.rate.getD .slow) cause) (s.setLink side (l.lowered s))) := by
  simp only [leaveUp, State.setLink_linkAt_same, State.setLink_setLink]
  rfl

/-- R53: what leaving UP leaves of the state. -/
theorem leaveUp_setLink_spec (side : Side) (cause : LinkCause) (l : Link) (s : State) :
    let body : EventBody := .linkState side .down .up (l.rate.getD .slow) cause
    let t := leaveUp side cause (s.setLink side l)
    t.linkAt side = l.lowered s ∧ Noticed (post body (s.setLink side (l.lowered s))) t ∧ t.mon = s.mon ∧
      t.mgp.events = joinEvents s.clock body s.mgp.events ∧ ReportsLink side false s t := by
  intro body t
  have reports : t = linkStatus side false (post body (s.setLink side (l.lowered s))) := leaveUp_setLink side cause l s
  have relayed := relayed_linkStatus side false (post body (s.setLink side (l.lowered s)))
  have lowered : (post body (s.setLink side (l.lowered s))).linkAt side = l.lowered s := State.setLink_linkAt_same ..
  rw [reports]
  refine ⟨(relayed.noticed.linkAt_of_not_up ?_).trans lowered, relayed.afterLinkState (reportsLink_linkStatus side false _)⟩
  rw [lowered]
  exact LinkState.noConfusion

/-! ## Valid frames other than Pace (R52, R57, R58) -/

/-- The command `c` brings a valid frame other than Pace at a rate to the link `l`, not as a frame of its own loop test, and
`kept` is the link with the frame in its receive holding when it is of a held kind, or lost to overrun (R57). -/
def BringsFrame (side : Side) (rate : Rate) (l : Link) (c : Instr) (kept : Link) : Prop :=
  c = .readyFrameReceived side rate ∧ kept = l ∨ c = .idleFrameReceived side rate ∧ kept = l ∨
    (∃ seq, c = .loopTestFrameReceived side rate seq ∧ kept = l ∧ l.state ≠ .loop) ∨
    (∃ f : Frame, c = .heldFrameReceived side rate f ∧ f.holdable = true ∧ kept = l.hold f)

/-- All these commands are one operation on the link. -/
theorem BringsFrame.exec_eq {rate : Rate} {c : Instr} {kept : Link} (h : BringsFrame side rate (s.linkAt side) c kept)
    (running : s.running = true) :
    ∃ keep : Link → Link, keep (s.linkAt side) = kept ∧ exec c s = .next (takeOther side rate keep s) := by
  obtain ⟨rfl, rfl⟩ | ⟨rfl, rfl⟩ | ⟨seq, rfl, rfl, notLoop⟩ | ⟨f, rfl, holdable, rfl⟩ := h
  · exact ⟨id, rfl, congrArg Host.Outcome.next (if_pos running)⟩
  · exact ⟨id, rfl, congrArg Host.Outcome.next (if_pos running)⟩
  · exact ⟨id, rfl, congrArg Host.Outcome.next ((if_pos running).trans (if_neg notLoop))⟩
  · exact ⟨Link.hold f, rfl, congrArg Host.Outcome.next ((if_pos running).trans (if_pos holdable))⟩

theorem Link.hold_only (f : Frame) (l : Link) :
    l.hold f = { l with holding := (l.hold f).holding, overruns := (l.hold f).overruns } := by
  unfold Link.hold
  split
  · rfl
  · rfl

/-- A frame that arrives touches nothing of the link but its holding and its overruns. -/
theorem BringsFrame.kept_only {rate : Rate} {c : Instr} {kept : Link} (h : BringsFrame side rate l c kept) :
    kept = { l with holding := kept.holding, overruns := kept.overruns } := by
  obtain ⟨-, rfl⟩ | ⟨-, rfl⟩ | ⟨-, -, rfl, -⟩ | ⟨f, -, -, rfl⟩ := h
  · rfl
  · rfl
  · rfl
  · exact Link.hold_only f l

theorem takeOther_readying {rate : Rate} {keep : Link → Link} (current : (s.linkAt side).rate = some rate)
    (readying : (s.linkAt side).state = .readying) :
    takeOther side rate keep s = countReady side (s.setLink side (keep (s.linkAt side))) := by
  simp only [takeOther, current, readying, if_true]

theorem takeOther_up {rate : Rate} {keep : Link → Link} (current : (s.linkAt side).rate = some rate)
    (up : (s.linkAt side).state = .up) :
    takeOther side rate keep s = s.setLink side ((keep (s.linkAt side)).heard s) := by
  simp only [takeOther, current, up, if_true]

theorem takeOther_ignored {rate : Rate} {keep : Link → Link}
    (h : (s.linkAt side).rate ≠ some rate ∨ (s.linkAt side).state ≠ .readying ∧ (s.linkAt side).state ≠ .up) :
    takeOther side rate keep s = s := by
  obtain otherRate | ⟨notReadying, notUp⟩ := h
  · exact if_neg otherRate
  · cases state : (s.linkAt side).state with
    | readying => exact absurd state notReadying
    | up => exact absurd state notUp
    | down | pacing | listening | failed | loop => simp only [takeOther, state, ite_self]

theorem countReady_setLink_few (few : l.readyCount < 2) :
    countReady side (s.setLink side l) = s.setLink side { l with readyCount := l.readyCount + 1 } := by
  have counted : countUp 3 l.readyCount = l.readyCount + 1 := Nat.min_eq_left (by omega)
  have notThird : ¬ 3 ≤ l.readyCount + 1 := by omega
  simp only [countReady, State.setLink_linkAt_same, State.setLink_setLink, counted, notThird, if_false]

theorem countReady_setLink_third (third : 2 ≤ l.readyCount) :
    countReady side (s.setLink side l) = enterUp side (s.setLink side { l with readyCount := 3 }) := by
  have counted : countUp 3 l.readyCount = 3 := Nat.min_eq_right (by omega)
  simp only [countReady, State.setLink_linkAt_same, State.setLink_setLink, counted, Nat.le_refl, if_true]

/-- Settles O28: the arriving frame is kept, and then counts by the link's state. -/
theorem validFrameCounts : Obligations.ValidFrameCounts := by
  intro s side rate c kept running l form
  have brings : BringsFrame side rate l c kept := form
  have sameCount : kept.readyCount = l.readyCount := by rw [brings.kept_only]
  obtain ⟨keep, keeps, answered⟩ := brings.exec_eq running
  refine ⟨fun current readying few => ?_, fun current up => ?_, fun ignored => ?_⟩
  · rw [← sameCount] at few ⊢
    rw [answered, takeOther_readying current readying, keeps, countReady_setLink_few few]
  · rw [answered, takeOther_up current up, keeps]; rfl
  · rw [answered, takeOther_ignored ignored]

/-- Settles O29: the third frame enters UP, which is a post and a report to NRV. -/
theorem thirdValidFrameBringsUp : Obligations.ThirdValidFrameBringsUp := by
  intro s side rate c kept running l current readying third form up
  have notLoop : l.state ≠ .loop := by simp [readying]
  have brings : BringsFrame side rate l c kept := by
    obtain ready | idle | ⟨seq, isLoopTest, same⟩ | held := form
    · exact .inl ready
    · exact .inr (.inl idle)
    · exact .inr (.inr (.inl ⟨seq, isLoopTest, same, notLoop⟩))
    · exact .inr (.inr (.inr held))
  have sameCount : kept.readyCount = l.readyCount := by rw [brings.kept_only]
  have sameRate : kept.rate.getD .slow = rate := by rw [brings.kept_only, current, Option.getD_some]
  obtain ⟨keep, keeps, answered⟩ := brings.exec_eq running
  rw [← sameCount] at third
  rw [takeOther_readying current readying, keeps, countReady_setLink_third third, enterUp_setLink] at answered
  refine ⟨_, answered, ?_⟩
  rw [← sameRate]
  exact (relayed_linkReportsUp side _).afterLinkState (reportsLink_linkReportsUp side _)

/-! ## Errored frames and silence (R55, R56, R58) -/

theorem exec_erroredFrame {e : FrameError} (running : s.running = true) :
    exec (.erroredFrame side e) s = .next (takeErrored side e s) :=
  congrArg Host.Outcome.next (if_pos running)

theorem exec_silenceExpiry (running : s.running = true) (up : (s.linkAt side).state = .up)
    (expired : due s (s.linkAt side).silence = true) :
    exec (.silenceExpiry side) s = .next (leaveUp side .silence s) :=
  congrArg Host.Outcome.next (onLinkExpiry_of_due running up expired)

theorem takeErrored_readying {e : FrameError} (readying : (s.linkAt side).state = .readying) :
    takeErrored side e s = s.setLink side { (s.linkAt side).countError e with readyCount := 0 } := by
  simp only [takeErrored, readying]

/-- The link in UP with an errored frame counted and in its error run. -/
def Link.lengthenRun (e : FrameError) (l : Link) : Link := { l.countError e with errorRun := l.errorRun + 1 }

theorem takeErrored_up_few {e : FrameError} (up : (s.linkAt side).state = .up) (few : (s.linkAt side).errorRun < 3) :
    takeErrored side e s = s.setLink side ((s.linkAt side).lengthenRun e) := by
  have notFourth : ¬ 4 ≤ (s.linkAt side).errorRun + 1 := by omega
  simp only [takeErrored, up, notFourth, if_false, Link.lengthenRun]

theorem takeErrored_up_fourth {e : FrameError} (up : (s.linkAt side).state = .up) (fourth : 3 ≤ (s.linkAt side).errorRun) :
    takeErrored side e s = leaveUp side .errorRun (s.setLink side ((s.linkAt side).lengthenRun e)) := by
  have reached : 4 ≤ (s.linkAt side).errorRun + 1 := by omega
  simp only [takeErrored, up, reached, if_true, Link.lengthenRun]

theorem takeErrored_ignored {e : FrameError} (notReadying : (s.linkAt side).state ≠ .readying)
    (notUp : (s.linkAt side).state ≠ .up) : takeErrored side e s = s := by
  cases state : (s.linkAt side).state with
  | readying => exact absurd state notReadying
  | up => exact absurd state notUp
  | down | pacing | listening | failed | loop => simp only [takeErrored, state]

theorem Link.countError_rate (e : FrameError) (l : Link) : (l.countError e).rate = l.rate := by
  cases e
  · rfl
  · rfl

/-- Settles O30: an errored frame by the link's state, and both ways out of UP by `leaveUp_setLink_spec`. -/
theorem errorsAndSilenceLeaveUp : Obligations.ErrorsAndSilenceLeaveUp := by
  intro s side running l counted leaves
  have counts (e : FrameError) : counted e = l.countError e := by
    cases e
    · rfl
    · rfl
  have answered (e : FrameError) : exec (.erroredFrame side e) s = .next (takeErrored side e s) := exec_erroredFrame running
  have left (k : Link) (cause : LinkCause) (sameRate : k.rate = l.rate) :
      leaves k cause (leaveUp side cause (s.setLink side k)) := by
    have spec := leaveUp_setLink_spec side cause k s
    rw [sameRate] at spec
    exact spec
  refine ⟨fun e readying => ?readying, fun e up few => ?few, fun e up fourth => ?fourth,
    fun e notReadying notUp => ?ignored, fun up expired => ?silence⟩
  case readying => rw [answered, takeErrored_readying readying, counts]
  case few => rw [answered, takeErrored_up_few up few, counts]; rfl
  case fourth =>
    refine ⟨_, answered e, ?_⟩
    rw [takeErrored_up_fourth up fourth, counts]
    exact left (l.lengthenRun e) .errorRun (Link.countError_rate e l)
  case ignored => rw [answered, takeErrored_ignored notReadying notUp]
  case silence =>
    refine ⟨_, exec_silenceExpiry running up expired, ?_⟩
    have silenced := left l .silence rfl
    rwa [State.setLink_self] at silenced

/-! ## The transmit queue (R60) -/

theorem Link.enqueue_room (urgent : Bool) (f : Frame) (room : l.depth < 16) :
    l.enqueue urgent f =
      if urgent then { l with urgent := l.urgent ++ [f] } else { l with routine := l.routine ++ [f] } :=
  if_pos room

theorem Link.enqueue_full_routine (f : Frame) (full : l.depth = 16) : l.enqueue false f = l :=
  if_neg (by simp only [full, Config.txCapacity, Nat.lt_irrefl, not_false_eq_true])

theorem Link.enqueue_full_urgent (f : Frame) (full : l.depth = 16) :
    l.enqueue true f =
      if l.routine = [] then { l with txOverflow := min (l.txOverflow + 1) 255 }
      else { l with routine := l.routine.dropLast, urgent := l.urgent ++ [f] } := by
  simp only [Link.enqueue, full, Config.txCapacity, Nat.lt_irrefl, if_false, if_true, List.isEmpty_iff, countUp]

/-- Settles O31: by room, and in a full queue by class. -/
theorem transmitQueueTakesByClass : Obligations.TransmitQueueTakesByClass := by
  intro l f
  refine ⟨fun room => ⟨Link.enqueue_room false f room, Link.enqueue_room true f room⟩, Link.enqueue_full_routine f,
    fun older newest full routine => ?_, fun full allUrgent => ?_⟩
  · have holdsRoutine : l.routine ≠ [] := by simp [routine]
    rw [Link.enqueue_full_urgent f full, if_neg holdsRoutine, routine, List.dropLast_concat]
  · rw [Link.enqueue_full_urgent f full, if_pos allUrgent]

/-! ## Completions and the keepalive (R50 to R52, R59) -/

theorem exec_frameSendComplete (running : s.running = true) (busy : (s.linkAt side).sending ≠ none) :
    exec (.frameSendComplete side) s = .next (s.setLink side ((s.linkAt side).sent s)) :=
  congrArg Host.Outcome.next (if_pos (by rw [running, Option.isSome_iff_ne_none.2 busy, Bool.and_self]))

theorem exec_keepaliveExpiry (running : s.running = true) (up : (s.linkAt side).state = .up)
    (expired : due s (s.linkAt side).keepalive = true) :
    exec (.keepaliveExpiry side) s = .next (s.setLink side (s.linkAt side).keepAlive) :=
  congrArg Host.Outcome.next (onLinkExpiry_of_due running up expired)

/-- The link whose line has become free. -/
def Link.freed (l : Link) : Link := { l with sending := none }

/-- R59: the link in UP whose line has become free, its keepalive re-armed. -/
def Link.freedInUp (s : State) (l : Link) : Link := { l with sending := none, keepalive := arm s 1000 }

theorem Link.sent_up (up : l.state = .up) : l.sent s = (l.freedInUp s).sendNext s := by
  have notPacing : l.state ≠ .pacing := by simp [up]
  have begins := Link.startSending_of_free (s := s) (l := l.freedInUp s) rfl (.inl notPacing)
  rw [← begins]
  simp only [Link.sent, up, Config.keepalive, Link.freedInUp]

theorem Link.sent_pacing (pacing : l.state = .pacing) (noHail : l.hail = none) : l.sent s = l.freed.sendNext s := by
  have begins := Link.startSending_of_free (s := s) (l := l.freed) rfl (.inr noHail)
  rw [← begins]
  simp only [Link.sent, pacing, Link.freed]

theorem Link.sent_readying (readying : l.state = .readying) :
    l.sent s =
      { l with
        answerPaces := l.answerPaces - 1,
        sending := some ⟨⟨if l.answerPaces = 0 then .ready else .pace, []⟩, l.rate.getD .slow⟩ } := by
  have begins := Link.startSending_readying (s := s) (l := l.freed) readying rfl
  have sent : l.sent s = l.freed.startSending s := by simp only [Link.sent, readying, Link.freed]
  rw [sent, begins]
  rfl

theorem Link.sent_silent (h : l.state = .down ∨ l.state = .listening ∨ l.state = .failed) : l.sent s = l.freed := by
  obtain h | h | h := h
  · simp only [Link.sent, h, Link.freed]
  · simp only [Link.sent, h, Link.freed]
  · simp only [Link.sent, h, Link.freed]

theorem Link.keepAlive_free (free : l.sending = none) :
    l.keepAlive = { l with keepalive := none, sending := some ⟨⟨.idle, []⟩, l.rate.getD .slow⟩ } := by
  simp only [Link.keepAlive, free, Option.isSome_none, Bool.false_eq_true, if_false, Link.send]

theorem Link.keepAlive_busy (busy : l.sending ≠ none) : l.keepAlive = { l with keepalive := none } :=
  if_pos (Option.isSome_iff_ne_none.2 busy)

/-- Settles O32: a completion by what is queued, and the keepalive by what is in sending. -/
theorem upLinkSendsInOrder : Obligations.UpLinkSendsInOrder := by
  intro s side running up l rate done
  have completed (busy : l.sending ≠ none) :
      exec (.frameSendComplete side) s = .next (s.setLink side (done.sendNext s)) := by
    rw [exec_frameSendComplete running busy, Link.sent_up up]; rfl
  refine ⟨fun busy noUrgent noRoutine => ?_, fun f rest busy urgent => ?_, fun f rest busy noUrgent routine => ?_,
    fun expired free => ?_, fun expired busy => ?_⟩
  · rw [completed busy, Link.sendNext_up_empty (l := done) up noUrgent noRoutine]
  · rw [completed busy, Link.sendNext_up_urgent (l := done) up urgent]
  · rw [completed busy, Link.sendNext_up_routine (l := done) up noUrgent routine]
  · rw [exec_keepaliveExpiry running up expired, Link.keepAlive_free free]
  · rw [exec_keepaliveExpiry running up expired, Link.keepAlive_busy busy]

/-- Settles O33: a completion by the link's state. -/
theorem agreeingLinkRepeatsItsFrames : Obligations.AgreeingLinkRepeatsItsFrames := by
  intro s side running busy l rate
  have completed : exec (.frameSendComplete side) s = .next (s.setLink side (l.sent s)) :=
    exec_frameSendComplete running busy
  refine ⟨fun pacing noHail => ?pacing, fun readying answered => ?ready, fun readying owing => ?pace,
    fun silent => ?silent⟩
  case pacing => rw [completed, Link.sent_pacing pacing noHail, Link.sendNext_pacing (l := l.freed) pacing]; rfl
  case ready => rw [completed, Link.sent_readying readying, if_pos answered, answered]
  case pace => rw [completed, Link.sent_readying readying, if_neg owing]
  case silent => rw [completed, Link.sent_silent silent]; rfl

/-! ## Loop test (R63, R64) -/

theorem sideParam_sideCode (side : Side) : sideParam [byte side.code] = some side := by
  cases side
  · rfl
  · rfl

theorem exec_loopTest (takes : s.takesCommands) :
    exec (.loopTest [byte side.code]) s = .next (loopTestOf side s) := by
  refine congrArg Host.Outcome.next ?_
  rw [command_of_takesCommands takes, sideParam_sideCode]
  rfl

theorem loopTestOf_taken (h : (s.linkAt side).state = .down ∨ (s.linkAt side).state = .failed) :
    loopTestOf side s = owe ⟨.accepted, [], false⟩ (s.setLink side ((s.linkAt side).startLoop s)) := by
  have taken : takeLoopTest side s = some (s.setLink side ((s.linkAt side).startLoop s)) :=
    if_pos (by simpa only [Bool.or_eq_true, decide_eq_true_eq] using h)
  simp only [loopTestOf, taken, reply]

theorem loopTestOf_busy (notDown : (s.linkAt side).state ≠ .down) (notFailed : (s.linkAt side).state ≠ .failed) :
    loopTestOf side s = owe ⟨.busy, [], false⟩ s := by
  have refused : takeLoopTest side s = none :=
    if_neg (by simp only [notDown, notFailed, decide_false, Bool.or_self, Bool.false_eq_true, not_false_eq_true])
  simp only [loopTestOf, refused, reply]

/-- R63: a link with a free line begins its loop test with the first frame. -/
theorem Link.startLoop_eq (s : State) (free : l.sending = none) :
    l.startLoop s =
      { l with
        state := .loop, rx := .hunting, hailSeq := none, gapLimit := none, hailBurst := none, failedHold := none,
        hail := none, hailCount := 0, rate := some .slow, loopSent := 0, loopReturned := 0, loopCounted := [],
        sending := some ⟨⟨.loopTest, [1]⟩, .slow⟩ } :=
  (Link.startSending_of_free (by exact free) (.inr (by rfl))).trans
    (Link.sendNext_loop (by rfl) (by exact Nat.zero_lt_succ 15))

/-- The link in LOOP with a completion counted. -/
def Link.loopCompleted (s : State) (l : Link) : Link :=
  { l with
    sending := none, loopSent := countUp Config.loopFrames l.loopSent,
    loopReturn :=
      if countUp Config.loopFrames l.loopSent = Config.loopFrames then arm s Config.loopReturn else l.loopReturn }

theorem Link.sent_loop (inLoop : l.state = .loop) : l.sent s = (l.loopCompleted s).sendNext s := by
  have notPacing : l.state ≠ .pacing := by simp [inLoop]
  have begins := Link.startSending_of_free (s := s) (l := l.loopCompleted s) rfl (.inl notPacing)
  rw [← begins]
  simp only [Link.sent, inLoop, Link.loopCompleted]

theorem Link.sent_loop_more (inLoop : l.state = .loop) (more : l.loopSent < 15) :
    l.sent s =
      { l with
        loopSent := l.loopSent + 1,
        sending := some ⟨⟨.loopTest, [byte (l.loopSent + 2)]⟩, l.rate.getD .slow⟩ } := by
  have counted : countUp 16 l.loopSent = l.loopSent + 1 := Nat.min_eq_left (by omega)
  have notLast : l.loopSent + 1 ≠ 16 := by omega
  have completed : l.loopCompleted s = { l with sending := none, loopSent := l.loopSent + 1 } := by
    simp only [Link.loopCompleted, Config.loopFrames, counted, notLast, if_false]
  rw [Link.sent_loop inLoop, completed, Link.sendNext_loop (by exact inLoop) (by exact Nat.succ_lt_succ more)]

theorem Link.sent_loop_last (inLoop : l.state = .loop) (last : l.loopSent = 15) :
    l.sent s = { l with loopSent := 16, sending := none, loopReturn := arm s 1000 } := by
  have completed : l.loopCompleted s = { l with loopSent := 16, sending := none, loopReturn := arm s 1000 } := by
    simp only [Link.loopCompleted, Config.loopFrames, last, countUp, Nat.min_self, if_true, Config.loopReturn]
  rw [Link.sent_loop inLoop, completed, Link.sendNext_loop_done (by exact inLoop) (by exact Nat.lt_irrefl 16)]

/-- R63: a frame whose sending has completed is counted at its first return. -/
theorem Link.loopBack_sent {seq : Nat} (first : 1 ≤ seq) (sent : seq ≤ l.loopSent) (last : seq ≤ 16) :
    l.loopBack seq =
      if l.loopCounted.contains seq then l
      else { l with loopReturned := min (l.loopReturned + 1) 16, loopCounted := l.loopCounted ++ [seq] } := by
  have begun : seq ≤ l.loopSent + (if l.sending.isSome then 1 else 0) := Nat.le_add_right_of_le sent
  cases counted : l.loopCounted.contains seq
  · simp only [Link.loopBack, first, begun, Config.loopFrames, last, counted, decide_true, Bool.not_false, Bool.and_self,
      if_true, Bool.false_eq_true, if_false, countUp]
  · simp only [Link.loopBack, counted, Bool.not_true, Bool.and_false, Bool.false_eq_true, if_false, if_true]

theorem exec_loopTestFrameReceived_loop {rate : Rate} {seq : Byte} (running : s.running = true)
    (inLoop : (s.linkAt side).state = .loop) (current : (s.linkAt side).rate = some rate) :
    exec (.loopTestFrameReceived side rate seq) s = .next (s.setLink side ((s.linkAt side).loopBack seq.toNat)) :=
  congrArg Host.Outcome.next ((if_pos running).trans ((if_pos inLoop).trans (if_pos current)))

/-- Settles O34: the command by the link's state, a completion by the frames sent, a frame's return, and the result. -/
theorem loopTestRuns : Obligations.LoopTestRuns := by
  intro s side l
  refine ⟨fun takes idle free => ?taken, fun takes notDown notFailed => ?busy,
    fun running inLoop sending more slow => ?more, fun running inLoop sending last => ?last,
    fun seq running inLoop slow first sent last => ?returned, fun running inLoop expired => ?result⟩
  case taken => rw [exec_loopTest takes, loopTestOf_taken idle, Link.startLoop_eq s free]
  case busy => rw [exec_loopTest takes, loopTestOf_busy notDown notFailed]
  case more =>
    have atSlow : l.rate.getD .slow = .slow := by rw [slow, Option.getD_some]
    rw [exec_frameSendComplete running sending, Link.sent_loop_more inLoop more, atSlow]
  case last => rw [exec_frameSendComplete running sending, Link.sent_loop_last inLoop last]
  case returned => rw [exec_loopTestFrameReceived_loop running inLoop slow, Link.loopBack_sent first sent last]
  case result => exact congrArg Host.Outcome.next (onLinkExpiry_of_due running inLoop expired)

end Sys2Proof.Machine
end

section
/-! SUPPORT. Proofs for the Notice Relay and Ring View (05): the acceptance of notices, the derived values of a span, the segment
map, and what an event on the reports of some spans leaves, whether an expiry or a notice brings it. -/

namespace Sys2Proof.Machine

/-! ## Acceptance (R71) -/

theorem newer_iff {s t : Nat} (hs : s < 256) (ht : t < 256) :
    newer s t = true ↔ 1 ≤ ((s : Int) - (t : Int)) % 256 ∧ ((s : Int) - (t : Int)) % 256 ≤ 127 := by
  simp only [newer, Bool.and_eq_true, decide_eq_true_eq]
  omega

theorem acceptsNotice_some (seq : Nat) (r : Report) :
    acceptsNotice seq (some r) = true ↔ r.stale = true ∨ newer seq r.seq = true := by
  simp only [acceptsNotice, Bool.or_eq_true]

/-- Settles O35, by the report that the notice names. -/
theorem noticeAcceptance : Obligations.NoticeAcceptance :=
  ⟨fun _ _ => newer_iff, fun _ => rfl, acceptsNotice_some⟩

/-! ## Derived values (R75, R76) -/

theorem anyEnd_iff (p : Report → Bool) (w e : Option Report) :
    anyEnd p w e = true ↔ ∃ r, (w = some r ∨ e = some r) ∧ p r = true := by
  simp only [anyEnd, Bool.or_eq_true, Option.any_eq_true, or_and_right, exists_or]

theorem Report.fresh_iff (r : Report) : r.fresh = true ↔ r.stale = false := by
  simp only [Report.fresh, Bool.not_eq_true']

theorem Report.failing_iff (r : Report) :
    r.failing = true ↔ r.stale = false ∧ (r.condition = .cut ∨ r.condition = .forcedOut) := by
  simp only [Report.failing, Bool.and_eq_true, Bool.or_eq_true, decide_eq_true_eq, Report.fresh_iff]

theorem Report.vouching_iff (r : Report) :
    r.vouching = true ↔ r.stale = false ∧ (r.condition = .clear ∨ r.condition = .degraded) ∧ r.linkUp = true := by
  simp only [Report.vouching, Bool.and_eq_true, Bool.or_eq_true, decide_eq_true_eq, Report.fresh_iff, and_assoc]

theorem Report.not_failing_of_vouching {r : Report} (h : r.vouching = true) : ¬ r.failing = true := by
  obtain ⟨-, condition, -⟩ := r.vouching_iff.1 h
  rw [Report.failing_iff]
  rintro ⟨-, failing⟩
  obtain clear | degraded := condition
  · simp [clear] at failing
  · simp [degraded] at failing

theorem deriveStatus_failed_iff (w e : Option Report) :
    deriveStatus w e = .failed ↔ anyEnd Report.failing w e = true := by
  unfold deriveStatus
  split
  next failing => simp only [failing]
  next sound => split <;> simp [sound]

/-- Where both ends vouch for a span neither fails it. -/
theorem deriveStatus_usable_iff (w e : Option Report) :
    deriveStatus w e = .usable ↔ ∃ a b, w = some a ∧ e = some b ∧ a.vouching = true ∧ b.vouching = true := by
  constructor
  · intro usable
    have vouched : (w.any Report.vouching && e.any Report.vouching) = true := by
      unfold deriveStatus at usable
      split at usable
      · cases usable
      · split at usable
        next vouched => exact vouched
        · cases usable
    simp only [Bool.and_eq_true, Option.any_eq_true] at vouched
    obtain ⟨⟨a, west, va⟩, b, east, vb⟩ := vouched
    exact ⟨a, b, west, east, va, vb⟩
  · rintro ⟨a, b, rfl, rfl, va, vb⟩
    have sound : anyEnd Report.failing (some a) (some b) = false := by
      simp [anyEnd, Report.not_failing_of_vouching va, Report.not_failing_of_vouching vb]
    simp [deriveStatus, sound, va, vb]

theorem deriveStatus_unknown_iff (w e : Option Report) :
    deriveStatus w e = .unknown ↔ deriveStatus w e ≠ .failed ∧ deriveStatus w e ≠ .usable := by
  cases deriveStatus w e <;> simp

/-- Settles O36: each value by what its predicate says of one report. -/
theorem spanValuesFromReports : Obligations.SpanValuesFromReports := by
  intro w e
  refine ⟨?failed, ?usable, deriveStatus_unknown_iff w e, ?locked, ?degraded⟩
  case failed => simp only [deriveStatus_failed_iff, anyEnd_iff, Report.failing_iff]
  case usable =>
    rw [deriveStatus_usable_iff]
    constructor
    · rintro ⟨a, b, west, east, va, vb⟩
      obtain ⟨fa, ca, ua⟩ := a.vouching_iff.1 va
      obtain ⟨fb, cb, ub⟩ := b.vouching_iff.1 vb
      exact ⟨a, b, west, east, fa, fb, ca, cb, ua, ub⟩
    · rintro ⟨a, b, west, east, fa, fb, ca, cb, ua, ub⟩
      exact ⟨a, b, west, east, a.vouching_iff.2 ⟨fa, ca, ua⟩, b.vouching_iff.2 ⟨fb, cb, ub⟩⟩
  case locked => simp only [deriveLocked, anyEnd_iff, Bool.and_eq_true, Report.fresh_iff]
  case degraded => simp only [deriveDegraded, anyEnd_iff, Bool.and_eq_true, decide_eq_true_eq, Report.fresh_iff]

/-! ## The spans of an arc -/

theorem mod_of_lt_twice {v n : Nat} (h : v < n + n) : v % n = if v < n then v else v - n := by
  split
  next lt => exact Nat.mod_eq_of_lt lt
  next ge => rw [Nat.mod_eq_sub_mod (by omega), Nat.mod_eq_of_lt (by omega)]

/-- The way East to a node further on crosses the spans between the two. -/
theorem mem_arcSpans_east {n x y i : Nat} (lt : x < y) (inRing : y < n) :
    i ∈ arcSpans n x y .east ↔ x ≤ i ∧ i < y := by
  simp only [arcSpans, List.mem_map, List.mem_range, mod_of_lt_twice (show y + n - x < n + n by omega),
    if_neg (show ¬ y + n - x < n by omega)]
  constructor
  · rintro ⟨k, hk, rfl⟩
    rw [Nat.mod_eq_of_lt (by omega)]
    omega
  · rintro ⟨above, below⟩
    exact ⟨i - x, by omega, by rw [Nat.mod_eq_of_lt (by omega)]; omega⟩

/-- The way West from a node to one further East crosses every other span of the ring. -/
theorem mem_arcSpans_west {n x y i : Nat} (lt : x < y) (inRing : y < n) :
    i ∈ arcSpans n x y .west ↔ i < x ∨ y ≤ i ∧ i < n := by
  simp only [arcSpans, List.mem_map, List.mem_range, Nat.mod_eq_of_lt (show x + n - y < n by omega)]
  constructor
  · rintro ⟨k, hk, rfl⟩
    rw [mod_of_lt_twice (by omega)]
    split <;> omega
  · rintro (before | ⟨above, below⟩)
    · exact ⟨x - 1 - i, by omega, by rw [mod_of_lt_twice (by omega), if_neg (by omega)]; omega⟩
    · exact ⟨x + n - 1 - i, by omega, by rw [Nat.mod_eq_of_lt (by omega)]; omega⟩

/-- The span at a place of the way West from one node to another stands on the way East back, at the mirrored place. -/
theorem arcSpans_mirror {n x y k : Nat} (hx : x < n) (hy : y < n) (hk : k < (x + n - y) % n) :
    (x + n - 1 - k) % n = (y + ((x + n - y) % n - 1 - k)) % n := by
  rw [mod_of_lt_twice (show x + n - y < n + n by omega)] at hk ⊢
  split at hk
  next wraps =>
    rw [if_pos wraps]
    congr 1
    omega
  next straight =>
    rw [if_neg straight, ← Nat.add_mod_right (y + _)]
    congr 1
    omega

/-- The way West from one node to another crosses the spans of the way East back. -/
theorem mem_arcSpans_swap {n x y i : Nat} (hx : x < n) (hy : y < n) :
    i ∈ arcSpans n x y .west ↔ i ∈ arcSpans n y x .east := by
  simp only [arcSpans, List.mem_map, List.mem_range]
  constructor
  · rintro ⟨k, hk, rfl⟩
    exact ⟨_, by omega, (arcSpans_mirror hx hy hk).symm⟩
  · rintro ⟨k, hk, rfl⟩
    refine ⟨(x + n - y) % n - 1 - k, by omega, ?_⟩
    rw [arcSpans_mirror hx hy (by omega)]
    congr 2
    omega

theorem arcSpans_self (n x : Nat) : arcSpans n x x .east = [] := by
  simp [arcSpans]

/-! ## The segment map (R78) -/

section Segments

variable {ring : List SpanEntry}

theorem mem_failedSpans {i : Nat} : i ∈ failedSpans ring ↔ ∃ e, ring[i]? = some e ∧ e.status = .failed := by
  simp only [failedSpans, List.mem_filter, List.mem_range, Option.any_eq_true, decide_eq_true_eq, and_iff_right_iff_imp]
  rintro ⟨e, found, -⟩
  exact (List.getElem?_eq_some_iff.1 found).1

theorem lt_length_of_mem_failedSpans {i : Nat} (h : i ∈ failedSpans ring) : i < ring.length :=
  List.mem_range.1 (List.mem_filter.1 h).1

theorem failedSpans_length_le : (failedSpans ring).length ≤ ring.length :=
  Nat.le_trans (List.length_filter_le _ _) (Nat.le_of_eq List.length_range)

theorem nodup_failedSpans : (failedSpans ring).Nodup := List.Pairwise.filter _ List.nodup_range

/-- The Failed spans crossed on the way East from node 0 to a node. -/
def failedBefore (ring : List SpanEntry) (node : Nat) : Nat := ((failedSpans ring).filter (· < node)).length

theorem failedBefore_zero : failedBefore ring 0 = 0 := by simp [failedBefore]

theorem failedBefore_length : failedBefore ring ring.length = (failedSpans ring).length := by
  rw [failedBefore, List.filter_eq_self.2]
  exact fun i h => decide_eq_true (lt_length_of_mem_failedSpans h)

/-- A step East crosses the span that the node names. -/
theorem failedBefore_succ (node : Nat) :
    failedBefore ring (node + 1) = failedBefore ring node + (failedSpans ring).count node := by
  simp only [failedBefore]
  induction failedSpans ring with
  | nil => rfl
  | cons i rest ih =>
    simp only [List.filter_cons, List.count_cons, decide_eq_true_eq, beq_iff_eq]
    obtain lt | eq | gt := Nat.lt_trichotomy i node
    · rw [if_pos (by omega), if_pos lt, if_neg (by omega), List.length_cons, List.length_cons]; omega
    · rw [if_pos (by omega), if_neg (by omega), if_pos eq, List.length_cons]; omega
    · rw [if_neg (by omega), if_neg (by omega), if_neg (by omega)]; omega

theorem failedBefore_succ_of_mem {node : Nat} (h : node ∈ failedSpans ring) :
    failedBefore ring (node + 1) = failedBefore ring node + 1 := by
  rw [failedBefore_succ, nodup_failedSpans.count, if_pos h]

theorem failedBefore_succ_of_not_mem {node : Nat} (h : node ∉ failedSpans ring) :
    failedBefore ring (node + 1) = failedBefore ring node := by
  rw [failedBefore_succ, List.count_eq_zero_of_not_mem h, Nat.add_zero]

theorem failedBefore_mono {x y : Nat} (le : x ≤ y) : failedBefore ring x ≤ failedBefore ring y := by
  induction le with
  | refl => exact Nat.le_refl _
  | step _ ih => rw [failedBefore_succ]; exact Nat.le_add_right_of_le ih

/-- As many Failed spans lie before a node as before one further East when none lies between them. -/
theorem failedBefore_eq_iff {x y : Nat} (le : x ≤ y) :
    failedBefore ring x = failedBefore ring y ↔ ∀ i, x ≤ i → i < y → i ∉ failedSpans ring := by
  induction le with
  | refl => exact iff_of_true rfl fun i _ _ => by omega
  | @step y le ih =>
    have before := failedBefore_mono (ring := ring) le
    by_cases h : y ∈ failedSpans ring
    · rw [failedBefore_succ_of_mem h]
      exact iff_of_false (by omega) fun none => none y le (Nat.lt_succ_self y) h
    · rw [failedBefore_succ_of_not_mem h, ih]
      refine ⟨fun none i above below => ?_, fun none i above below => none i above (by omega)⟩
      obtain lt | rfl := Nat.lt_succ_iff_lt_or_eq.1 below
      · exact none i above lt
      · exact h

theorem segmentMap_length : (segmentMap ring).length = ring.length := by
  simp only [segmentMap]
  split
  · rw [List.length_replicate]
  · rw [List.length_map, List.length_range]

theorem segmentMap_getD_few (few : (failedSpans ring).length < 2) (node : Nat) : (segmentMap ring).getD node 0 = 0 := by
  simp only [segmentMap, if_pos few, List.getD_eq_getElem?_getD, List.getElem?_replicate]
  split <;> rfl

theorem segmentMap_getD_many (many : 2 ≤ (failedSpans ring).length) {node : Nat} (lt : node < ring.length) :
    (segmentMap ring).getD node 0 = failedBefore ring node % (failedSpans ring).length := by
  simp [segmentMap, Nat.not_lt.2 many, failedBefore, List.getElem?_range lt]

/-- Two nodes are in one segment when the way East from one to the other crosses no Failed span, or the rest of the ring
holds none. -/
theorem segmentMap_eq_iff {x y : Nat} (lt : x < y) (inRing : y < ring.length) :
    (segmentMap ring).getD x 0 = (segmentMap ring).getD y 0 ↔
      failedBefore ring x = failedBefore ring y ∨
        failedBefore ring x = failedBefore ring 0 ∧ failedBefore ring y = failedBefore ring ring.length := by
  have ahead := failedBefore_mono (ring := ring) (Nat.le_of_lt lt)
  have most := failedBefore_mono (ring := ring) (Nat.le_of_lt inRing)
  rw [failedBefore_zero, failedBefore_length] at *
  obtain few | many := Nat.lt_or_ge (failedSpans ring).length 2
  · rw [segmentMap_getD_few few, segmentMap_getD_few few]
    omega
  · rw [segmentMap_getD_many many (by omega), segmentMap_getD_many many inRing]
    obtain some | all := Nat.lt_or_eq_of_le most
    · rw [Nat.mod_eq_of_lt some, Nat.mod_eq_of_lt (by omega)]
      omega
    · rw [all, Nat.mod_self]
      obtain less | same := Nat.lt_or_eq_of_le (all ▸ ahead)
      · rw [Nat.mod_eq_of_lt less]; omega
      · rw [same, Nat.mod_self]; omega

/-- R78: two different nodes are in one segment when one of the two ways between them crosses no Failed span. -/
theorem segmentMap_eq_iff_arcs {x y : Nat} (lt : x < y) (inRing : y < ring.length) :
    (segmentMap ring).getD x 0 = (segmentMap ring).getD y 0 ↔
      (∀ i ∈ arcSpans ring.length x y .east, i ∉ failedSpans ring) ∨
        ∀ i ∈ arcSpans ring.length x y .west, i ∉ failedSpans ring := by
  simp only [segmentMap_eq_iff lt inRing, mem_arcSpans_east lt inRing, mem_arcSpans_west lt inRing]
  rw [failedBefore_eq_iff (Nat.le_of_lt lt), failedBefore_eq_iff (Nat.le_of_lt inRing), eq_comm,
    failedBefore_eq_iff (Nat.zero_le x)]
  refine or_congr ⟨fun none i h => none i h.1 h.2, fun none i above below => none i ⟨above, below⟩⟩
    ⟨fun none i h => ?_, fun none => ⟨fun i _ below => none i (.inl below), fun i above below => none i (.inr ⟨above, below⟩)⟩⟩
  obtain below | ⟨above, below⟩ := h
  · exact none.1 i (Nat.zero_le i) below
  · exact none.2 i above below

/-- Settles O37: the numbers by the Failed spans before each node, and the connectivity by the two ways, whichever of the two
nodes comes first. -/
theorem segmentsAreCutByFailedSpans : Obligations.SegmentsAreCutByFailedSpans := by
  intro ring failed segment
  have failed_iff (i : Nat) : failed i ↔ i ∈ failedSpans ring := mem_failedSpans.symm
  simp only [failed_iff]
  refine ⟨segmentMap_length, fun few => segmentMap_getD_few few, fun many => ⟨?first, fun node inRing => ?step⟩,
    fun x y hx hy => ?connected⟩
  case first =>
    have nonempty : 0 < ring.length := by have := failedSpans_length_le (ring := ring); omega
    simp only [segment, segmentMap_getD_many many nonempty, failedBefore_zero, Nat.zero_mod]
  case step =>
    simp only [segment, segmentMap_getD_many many inRing, segmentMap_getD_many many (Nat.lt_of_succ_lt inRing)]
    refine ⟨fun crossed => ?_, fun whole => ?_⟩
    · rw [failedBefore_succ_of_mem crossed, Nat.mod_add_mod]
    · rw [failedBefore_succ_of_not_mem whole]
  case connected =>
    obtain lt | rfl | gt := Nat.lt_trichotomy x y
    · exact segmentMap_eq_iff_arcs lt hy
    · simp only [arcSpans_self, List.not_mem_nil, false_implies, implies_true, true_or]
    · simp only [segment, eq_comm (a := (segmentMap ring).getD x 0), segmentMap_eq_iff_arcs gt hx, mem_arcSpans_swap hx hy,
        mem_arcSpans_swap hy hx, or_comm]

end Segments

end Sys2Proof.Machine
end

section
/-! SUPPORT. Proofs for the Notice Relay and Ring View (05), continued: what an event on the reports of some spans leaves,
whether an expiry, a Span Notice or a Restart Notice brings it. -/

namespace Sys2Proof.Machine

/-! ## Notices as frames, and the relay (12.2, R72, R82) -/

theorem byte_bit (b : Bool) : byte (bit b) = if b then 1 else 0 := by
  cases b
  · rfl
  · rfl

/-- 12.2: the bytes of a Span Notice. -/
theorem spanNoticeFrame_eq (origin : Nat) (side : Side) (r : Report) (hops : Nat) :
    spanNoticeFrame origin side r hops =
      ⟨.spanNotice, [byte origin, byte side.code, byte r.condition.code, if r.linkUp then 1 else 0,
        if r.locked then 1 else 0, byte r.seq, byte hops]⟩ := by
  simp only [spanNoticeFrame, byte_bit]

theorem relay_eq_relayed (arrival : Side) (urgent : Bool) (hops : Nat) (f : Frame) (s : State) :
    relay arrival urgent hops f s = relayed arrival urgent hops f s := by
  simp only [relay, relayed, Frame.withHops, Nat.sub_eq_zero_iff_le]

/-- What a link begins to send lies in the link and the clock. -/
theorem Link.startSending_clock {s t : State} (clock : t.clock = s.clock) (l : Link) :
    l.startSending t = l.startSending s := by
  simp only [Link.startSending, Link.sendNext, arm, clock]

theorem offerNotice_link {s t : State} (link : t.link = s.link) (clock : t.clock = s.clock) (side : Side) (urgent : Bool)
    (f : Frame) : (offerNotice side urgent f t).link = (offerNotice side urgent f s).link := by
  have same : t.linkAt side = s.linkAt side := by simp only [State.linkAt, link]
  simp only [offerNotice, offerUp, same, Link.startSending_clock clock]
  split
  · simp only [State.setLink_link, link]
  · exact link

theorem relayed_link {s t : State} (link : t.link = s.link) (clock : t.clock = s.clock) (arrival : Side) (urgent : Bool)
    (hops : Nat) (f : Frame) : (relayed arrival urgent hops f t).link = (relayed arrival urgent hops f s).link := by
  simp only [relayed]
  split
  · exact link
  · exact offerNotice_link link clock _ _ _

/-! ## The refresh (R68, R69) -/

theorem originate_of {s : State} {side : Side} {i : Ident} {r : Report} (urgent : Bool) (known : s.ident = some i)
    (own : s.nrv.own.get side = some r) :
    originate side urgent s =
      offerNotice .west urgent (spanNoticeFrame i.node side { r with seq := (r.seq + 1) % 256 } (i.ring - 1))
        (offerNotice .east urgent (spanNoticeFrame i.node side { r with seq := (r.seq + 1) % 256 } (i.ring - 1))
          (setOwn side { r with seq := (r.seq + 1) % 256 } s)) := by
  simp only [originate, ownReport, known, own]

/-- Settles O38: the expiry by the deadline re-armed, and the notice by its bytes. -/
theorem refreshOriginatesANotice : Obligations.RefreshOriginatesANotice := by
  intro s side i r running known own expired seq f
  let rearmed := s.setNrv { s.nrv with refresh := s.nrv.refresh.set side (arm s s.plan.refresh) }
  have answered : exec (.refreshExpiry side) s = .next (originate side false rearmed) :=
    congrArg Host.Outcome.next ((if_pos running).trans (if_pos expired))
  rw [answered, originate_of (s := rearmed) false known own, spanNoticeFrame_eq]
  rfl

/-! ## The Ring View: what writes and recomputations leave -/

theorem setRemote_ring (span : Nat) (theEnd : SpanEnd) (r : Option Report) (s : State) (i : Nat) :
    (setRemote span theEnd r s).nrv.ring[i]? =
      if i = span then (s.nrv.ring[i]?).map (SpanEntry.setReport theEnd r) else s.nrv.ring[i]? :=
  modifyAt_getElem? _ _ _ _

theorem SpanEntry.report_setReport (e : SpanEntry) (x y : SpanEnd) (r : Option Report) :
    (e.setReport x r).report y = if y = x then r else e.report y := by
  cases x <;> cases y <;> rfl

/-- A written end report reads back, where the Ring View has the span, and every other end reads as before. -/
theorem remoteReport_setRemote (span : Nat) (theEnd : SpanEnd) (r : Option Report) (s : State) (i : Nat) (x : SpanEnd) :
    remoteReport (setRemote span theEnd r s) i x =
      if i = span ∧ x = theEnd then (if span < s.nrv.ring.length then r else none) else remoteReport s i x := by
  simp only [remoteReport, setRemote_ring]
  by_cases here : i = span
  · subst here
    cases found : s.nrv.ring[i]? with
    | none => simp [Nat.not_lt.2 (List.getElem?_eq_none_iff.1 found)]
    | some e => simp [SpanEntry.report_setReport, (List.getElem?_eq_some_iff.1 found).1]
  · simp [here]

theorem remoteReport_setRemote_same {span : Nat} {theEnd : SpanEnd} {s : State} (known : span < s.nrv.ring.length)
    (r : Option Report) : remoteReport (setRemote span theEnd r s) span theEnd = r := by
  rw [remoteReport_setRemote, if_pos ⟨rfl, rfl⟩, if_pos known]

theorem remoteReport_setRemote_none (span : Nat) (theEnd : SpanEnd) (s : State) :
    remoteReport (setRemote span theEnd none s) span theEnd = none := by
  rw [remoteReport_setRemote, if_pos ⟨rfl, rfl⟩, ite_self]

theorem lt_length_of_remoteReport {s : State} {span : Nat} {theEnd : SpanEnd} {r : Report}
    (h : remoteReport s span theEnd = some r) : span < s.nrv.ring.length := by
  obtain ⟨e, found, -⟩ := Option.bind_eq_some_iff.1 h
  exact (List.getElem?_eq_some_iff.1 found).1

/-- An entry's derived values follow from the state's reports alone, and rederiving them once more changes nothing. -/
theorem foldl_rederive (s : State) (spans : List Nat) (ring : List SpanEntry) (i : Nat) :
    (spans.foldl (fun r j => modifyAt j (rederive s j) r) ring)[i]? =
      if i ∈ spans then (ring[i]?).map (rederive s i) else ring[i]? := by
  induction spans generalizing ring with
  | nil => rfl
  | cons j rest ih =>
    have again : rederive s i ∘ rederive s i = rederive s i := rfl
    rw [List.foldl_cons, ih, modifyAt_getElem?]
    by_cases here : i = j
    · subst here
      by_cases later : i ∈ rest
      · simp [later, again]
      · simp [later]
    · simp [here]

theorem recompute_ring (spans : List Nat) (s : State) (i : Nat) :
    (recompute spans s).nrv.ring[i]? = if i ∈ spans then (s.nrv.ring[i]?).map (rederive s i) else s.nrv.ring[i]? :=
  foldl_rederive s spans s.nrv.ring i

/-- A recomputation reads the end reports and leaves them. -/
theorem recompute_reports (spans : List Nat) (s : State) (i : Nat) (theEnd : SpanEnd) :
    remoteReport (recompute spans s) i theEnd = remoteReport s i theEnd := by
  simp only [remoteReport, recompute_ring]
  split
  · cases s.nrv.ring[i]? with
    | none => rfl
    | some e => cases theEnd <;> rfl
  · rfl

theorem spanReports_congr {s t : State} {i : Nat} (reports : ∀ x, remoteReport t i x = remoteReport s i x)
    (own : t.nrv.own = s.nrv.own) (ident : t.ident = s.ident) : spanReports t i = spanReports s i := by
  have west := reports .westEnd
  have east := reports .eastEnd
  simp only [remoteReport, SpanEntry.report] at west east
  simp only [spanReports, west, east, own, ident]

theorem spanReports_recompute (spans : List Nat) (s : State) (i : Nat) :
    spanReports (recompute spans s) i = spanReports s i :=
  spanReports_congr (recompute_reports spans s i) rfl rfl

/-- The changes are read from the Ring View alone. -/
theorem spanChanges_nrv {before s t : State} (nrv : t.nrv = s.nrv) (spans : List Nat) :
    spanChanges spans before t = spanChanges spans before s := by
  have status : statusOf t = statusOf s := by funext i; unfold statusOf; rw [nrv]
  have locked : lockedOf t = lockedOf s := by funext i; unfold lockedOf; rw [nrv]
  have degraded : degradedOf t = degradedOf s := by funext i; unfold degradedOf; rw [nrv]
  simp only [spanChanges, status, locked, degraded]

/-- R77, R79: what one event hands to the Circuit Logic: one entry, or nothing where it is no restart, changes nothing and hands
no map. -/
theorem handChanges_toCcl (spans : List Nat) (restart : Option Nat) (before s : State) :
    (handChanges spans restart before s).toCcl = s.toCcl ++
      if restart = none ∧ spanChanges spans before s = [] ∧ mapHanded before.nrv.ring s.nrv.ring = false then []
      else [⟨restart, false, spanChanges spans before s,
        if mapHanded before.nrv.ring s.nrv.ring then some s.nrv.segments else none⟩] := by
  refine congrArg (s.toCcl ++ ·) (ite_congr (propext ?_) (fun _ => rfl) (fun _ => rfl))
  cases mapHanded before.nrv.ring s.nrv.ring with
  | false => simp
  | true => simp

/-! ## An event on the reports of some spans (R74 to R79) -/

/-- A change that leaves some spans to be recomputed: every other entry, the own reports and all that lies outside the Ring View
are as they were. -/
structure MarksReports (spans : List Nat) (s m : State) : Prop where
  others : ∀ i, i ∉ spans → m.nrv.ring[i]? = s.nrv.ring[i]?
  own : m.nrv.own = s.nrv.own
  rest : m = s.setNrv m.nrv

theorem marksReports_setRemote (span : Nat) (theEnd : SpanEnd) (r : Option Report) (s : State) :
    MarksReports [span] s (setRemote span theEnd r s) :=
  ⟨fun i h => by rw [setRemote_ring, if_neg (by simpa using h)], rfl, rfl⟩

/-- The entries of the marked spans are recomputed and their changes handed on: the view is up to date. -/
theorem MarksReports.viewUpdated {spans : List Nat} {s m : State} (h : MarksReports spans s m) (restart : Option Nat) :
    ViewUpdated spans restart s (handChanges spans restart s (recompute spans m)) := by
  obtain ⟨others, own, rest⟩ := h
  refine ⟨fun i hi e found => ?derived, fun i hi => ?others, rfl, own, ?toDce, ?toCcl, ?mon, ?frame⟩
  case derived =>
    have reports : spanReports (handChanges spans restart s (recompute spans m)) i = spanReports m i :=
      spanReports_recompute spans m i
    replace found : (recompute spans m).nrv.ring[i]? = some e := found
    rw [recompute_ring, if_pos hi] at found
    obtain ⟨old, -, rfl⟩ := Option.map_eq_some_iff.1 found
    rw [reports]
    exact ⟨rfl, rfl, rfl⟩
  case others => exact ((recompute_ring spans m i).trans (if_neg hi)).trans (others i hi)
  case toDce => rw [rest]; rfl
  case toCcl => exact (handChanges_toCcl spans restart s (recompute spans m)).trans (by rw [rest]; rfl)
  case mon => rw [rest]; rfl
  case frame =>
    rw [rest]
    exact ((noticed_setNrv _ s).trans (relayed_recompute _ _).noticed).trans (relayed_handChanges _ _ _ _).noticed

/-- Bringing the view up to date sends and posts nothing, and keeps the guards and the marked reports. -/
theorem MarksReports.handed {spans : List Nat} {s m : State} (h : MarksReports spans s m) (restart : Option Nat) :
    let t := handChanges spans restart s (recompute spans m)
    t.link = s.link ∧ t.clock = s.clock ∧ t.mgp = s.mgp ∧ (∀ o x, guardOf t o x = guardOf m o x) ∧
      ∀ i x, remoteReport t i x = remoteReport m i x := by
  have link : m.link = s.link := by rw [h.rest]; rfl
  have clock : m.clock = s.clock := by rw [h.rest]; rfl
  have mgp : m.mgp = s.mgp := by rw [h.rest]; rfl
  exact ⟨link, clock, mgp, fun _ _ => rfl, recompute_reports spans m⟩

/-- What only offers frames and posts events leaves the Ring View and its hand-offs as they were. -/
structure LeavesView (s t : State) : Prop where
  noticed : Noticed s t
  nrv : t.nrv = s.nrv
  toCcl : t.toCcl = s.toCcl
  toDce : t.toDce = s.toDce
  mon : t.mon = s.mon

theorem leavesView_relayed (arrival : Side) (urgent : Bool) (hops : Nat) (f : Frame) (s : State) :
    LeavesView s (relayed arrival urgent hops f s) := by
  unfold relayed
  split
  · exact ⟨.refl s, rfl, rfl, rfl, rfl⟩
  · obtain ⟨l, offered, eq⟩ := offerNotice_same arrival.other urgent ⟨f.kind, f.body.dropLast ++ [byte (hops - 1)]⟩ s
    rw [eq]
    exact ⟨noticed_setLink offered, rfl, rfl, rfl, rfl⟩

theorem leavesView_post (body : EventBody) (s : State) : LeavesView s (post body s) :=
  ⟨noticed_post body s, rfl, rfl, rfl, rfl⟩

theorem LeavesView.remoteReport {s t : State} (h : LeavesView s t) (span : Nat) (theEnd : SpanEnd) :
    remoteReport t span theEnd = remoteReport s span theEnd := by
  simp only [Machine.remoteReport, h.nrv]

theorem LeavesView.guardOf {s t : State} (h : LeavesView s t) (origin : Nat) (side : Side) :
    guardOf t origin side = guardOf s origin side := by
  simp only [Machine.guardOf, h.nrv]

/-- A view that is up to date stays so while frames are offered and events posted. -/
theorem ViewUpdated.leavesView {spans : List Nat} {restart : Option Nat} {s t u : State} (h : ViewUpdated spans restart s t)
    (k : LeavesView t u) : ViewUpdated spans restart s u := by
  obtain ⟨noticed, nrv, toCcl, toDce, mon⟩ := k
  have ident : u.ident = t.ident := by simp only [State.ident, State.plan, noticed.pld]
  have reports (i : Nat) : spanReports u i = spanReports t i :=
    spanReports_congr (fun x => by simp only [remoteReport, nrv]) (by rw [nrv]) ident
  exact
    { derived := fun i hi e found => by rw [reports]; rw [nrv] at found; exact h.derived i hi e found
      others := fun i hi => by rw [nrv]; exact h.others i hi
      segments := by rw [nrv]; exact h.segments
      own := by rw [nrv]; exact h.own
      toDce := by rw [toDce, spanChanges_nrv nrv]; exact h.toDce
      toCcl := by rw [toCcl, spanChanges_nrv nrv, nrv]; exact h.toCcl
      mon := mon.trans h.mon
      frame := h.frame.trans noticed }

/-! ## Expiries (R74, R83) -/

theorem guardOf_setGuard (origin : Nat) (arrival : Side) (d : Deadline) (s : State) (o : Nat) (x : Side) :
    guardOf (setGuard origin arrival d s) o x =
      if o = origin ∧ x = arrival then (if origin < (s.nrv.guards.get arrival).length then d else none)
      else guardOf s o x := by
  simp only [guardOf, setGuard, State.setNrv_nrv, Both.get_set]
  by_cases side : x = arrival
  · subst side
    simp only [if_true, modifyAt_getElem?, and_true]
    by_cases here : o = origin
    · subst here
      cases found : (s.nrv.guards.get x)[o]? with
      | none => simp [Nat.not_lt.2 (List.getElem?_eq_none_iff.1 found)]
      | some old => simp [(List.getElem?_eq_some_iff.1 found).1]
    · simp only [if_neg here]
  · simp only [side, and_false, if_false]

/-- Settles O39: the expired report is marked and the view brought up to date; the expired guard is disarmed alone. -/
theorem freshnessAndGuardExpiries : Obligations.FreshnessAndGuardExpiries := by
  refine ⟨fun s span theEnd r running held expired => ?freshness, fun s origin side running expired => ?guard⟩
  case freshness =>
    have answered : exec (.freshnessExpiry span theEnd) s = .next (staleReport span theEnd r s) := by
      refine congrArg Host.Outcome.next ?_
      simp only [held, running, expired, Bool.and_self, if_true]
    have marks := marksReports_setRemote span theEnd (some { r with stale := true, freshness := none }) s
    refine ⟨_, answered, marks.viewUpdated none, ?_, rfl, rfl⟩
    exact (recompute_reports [span] _ span theEnd).trans
      (remoteReport_setRemote_same (lt_length_of_remoteReport held) _)
  case guard =>
    intro t
    have answered : exec (.restartGuardExpiry origin side) s = .next t :=
      congrArg Host.Outcome.next (if_pos (by rw [running, expired, Bool.and_self]))
    refine ⟨answered, (guardOf_setGuard origin side none s origin side).trans ?_, fun o x other => ?_⟩
    · rw [if_pos ⟨rfl, rfl⟩, ite_self]
    · exact (guardOf_setGuard origin side none s o x).trans (if_neg fun h => other (Prod.ext h.1 h.2))

/-! ## A notice taken from a link (R70, R72, R81, R84) -/

section Taken

variable {s : State} {arrival : Side} {f : Frame} {l : Link} {i : Ident}

theorem exec_spanNotice (running : s.running = true)
    (held : takeHeld FrameKind.isNotice (s.linkAt arrival) = some (f, l)) (kind : f.kind = .spanNotice) :
    exec (.spanNotice arrival) s = .next (takeSpanNotice arrival f (s.setLink arrival l)) := by
  refine congrArg Host.Outcome.next ((if_pos running).trans ?_)
  simp only [held, if_pos kind]

theorem exec_restartNotice (running : s.running = true)
    (held : takeHeld FrameKind.isNotice (s.linkAt arrival) = some (f, l)) (kind : f.kind = .restartNotice) :
    exec (.restartNotice arrival) s = .next (takeRestartNotice arrival f (s.setLink arrival l)) := by
  refine congrArg Host.Outcome.next ((if_pos running).trans ?_)
  simp only [held, if_pos kind]

theorem takeSpanNotice_bad (bad : decodeNotice f.body = none) : takeSpanNotice arrival f s = s := by
  simp only [takeSpanNotice, bad]

theorem takeSpanNotice_known {n : Notice} (good : decodeNotice f.body = some n) (known : s.ident = some i) :
    takeSpanNotice arrival f s = judgeNotice i arrival n f s := by
  simp only [takeSpanNotice, good, known]

theorem takeSpanNotice_stranger {n : Notice} (good : decodeNotice f.body = some n) (stranger : s.ident = none) :
    takeSpanNotice arrival f s = relayNotice arrival n f s := by
  simp only [takeSpanNotice, good, stranger]

theorem judgeNotice_foreign {n : Notice} (foreign : n.origin = i.node ∨ i.ring ≤ n.origin) :
    judgeNotice i arrival n f s = s :=
  if_pos (by simpa only [Bool.or_eq_true, decide_eq_true_eq] using foreign)

/-- R71, R73: the notice of another node of the ring is accepted or changes nothing. -/
theorem judgeNotice_of {n : Notice} (notOwn : n.origin ≠ i.node) (inRing : n.origin < i.ring) :
    judgeNotice i arrival n f s =
      if acceptsNotice n.seq (remoteReport s (namedEnd i.ring n.origin n.side).1 (namedEnd i.ring n.origin n.side).2) then
        acceptNotice i arrival n f s
      else s :=
  if_neg (by simp only [Bool.or_eq_true, decide_eq_true_eq, notOwn, Nat.not_le.2 inRing, or_self, not_false_eq_true])

theorem acceptNotice_eq (i : Ident) (arrival : Side) (n : Notice) (f : Frame) (s : State) :
    acceptNotice i arrival n f s =
      let place := namedEnd i.ring n.origin n.side
      relayed arrival (noticeIsNews n (remoteReport s place.1 place.2)) n.hops f
        (handChanges [place.1] none s (recompute [place.1] (setRemote place.1 place.2 (some (noticeReport s n)) s))) :=
  relay_eq_relayed _ _ _ _ _

theorem relayed_mgp (arrival : Side) (urgent : Bool) (hops : Nat) (f : Frame) (s : State) :
    (relayed arrival urgent hops f s).mgp = s.mgp := by
  rw [← relay_eq_relayed]
  exact (relayed_relay arrival urgent hops f s).mgp

/-- R72: an accepted notice writes the end report that it names, and goes on round the ring. -/
theorem acceptNotice_spec (i : Ident) (arrival : Side) (n : Notice) (f : Frame) (s : State)
    (known : (namedEnd i.ring n.origin n.side).1 < s.nrv.ring.length) :
    let place := namedEnd i.ring n.origin n.side
    let t := acceptNotice i arrival n f s
    ViewUpdated [place.1] none s t ∧ remoteReport t place.1 place.2 = some (noticeReport s n) ∧
      t.link = (relayed arrival (noticeIsNews n (remoteReport s place.1 place.2)) n.hops f s).link ∧ t.mgp = s.mgp := by
  simp only [acceptNotice_eq]
  generalize namedEnd i.ring n.origin n.side = place at known ⊢
  generalize noticeIsNews n (remoteReport s place.1 place.2) = news
  have marks := marksReports_setRemote place.1 place.2 (some (noticeReport s n)) s
  have view := marks.viewUpdated none
  obtain ⟨link, clock, mgp, -, reports⟩ := marks.handed none
  generalize handChanges [place.1] none s _ = handed at view link clock mgp reports ⊢
  have relays := leavesView_relayed arrival news n.hops f handed
  refine ⟨view.leavesView relays, ?report, relayed_link link clock arrival news n.hops f, ?mgp⟩
  case report => rw [relays.remoteReport, reports, remoteReport_setRemote_same known]
  case mgp => rw [relayed_mgp, mgp]

end Taken

/-- Settles O40: by the fields, the origin and the acceptance rule. -/
theorem spanNoticeIsJudged : Obligations.SpanNoticeIsJudged := by
  intro s arrival f l running held kind taken
  have answered : exec (.spanNotice arrival) s = .next (takeSpanNotice arrival f taken) :=
    exec_spanNotice running held kind
  refine ⟨fun bad => by rw [answered, takeSpanNotice_bad bad], fun n i good known => ?_⟩
  intro place report
  have judged : takeSpanNotice arrival f taken = judgeNotice i arrival n f taken := takeSpanNotice_known good known
  rw [answered, judged]
  refine ⟨fun foreign => ?foreign, fun notOwn inRing refused => ?refused, fun notOwn inRing accepted inView => ?accepted⟩
  case foreign => rw [judgeNotice_foreign foreign]
  case refused => exact congrArg _ ((judgeNotice_of notOwn inRing).trans (if_neg (Bool.eq_false_iff.1 refused)))
  case accepted =>
    exact ⟨_, congrArg _ ((judgeNotice_of notOwn inRing).trans (if_pos accepted)), acceptNotice_spec i arrival n f taken inView⟩

/-! ## Restart Notices (R81, R82, R84) -/

section Restart

variable {s : State} {arrival : Side} {f : Frame} {i : Ident}

theorem takeRestartNotice_ignored (known : s.ident = some i)
    (ignored : field1 f.body 0 = i.node ∨ i.ring ≤ field1 f.body 0 ∨ guardOf s (field1 f.body 0) arrival ≠ none) :
    takeRestartNotice arrival f s = s := by
  simp only [takeRestartNotice, known]
  split
  · rfl
  next notForeign =>
    simp only [Bool.or_eq_true, decide_eq_true_eq, not_or] at notForeign
    have guarded : guarding (guardOf s (field1 f.body 0) arrival) = true :=
      Option.isSome_iff_ne_none.2 ((ignored.resolve_left notForeign.1).resolve_left notForeign.2)
    rw [if_pos guarded]

theorem takeRestartNotice_accepted (known : s.ident = some i) (notOwn : field1 f.body 0 ≠ i.node)
    (inRing : field1 f.body 0 < i.ring) (unguarded : guardOf s (field1 f.body 0) arrival = none) :
    takeRestartNotice arrival f s = acceptRestart i arrival (field1 f.body 0) (min (field1 f.body 1) 23) f s := by
  simp only [takeRestartNotice, known, notOwn, Nat.not_le.2 inRing, unguarded, guarding, decide_false, Bool.or_self,
    Option.isSome_none, Bool.false_eq_true, if_false]
  rfl

theorem takeRestartNotice_stranger (stranger : s.ident = none) (inRing : field1 f.body 0 < 24) :
    takeRestartNotice arrival f s =
      post (.restartHeard (field1 f.body 0) arrival) (relayed arrival true (min (field1 f.body 1) 23) f
        (setRelay (field1 f.body 0) .west none (setRelay (field1 f.body 0) .east none s))) := by
  rw [← relay_eq_relayed]
  simp only [takeRestartNotice, stranger]
  exact if_neg (Nat.not_le.2 inRing)

end Restart

theorem MarksReports.trans {xs ys : List Nat} {s t u : State} (h : MarksReports xs s t) (k : MarksReports ys t u) :
    MarksReports (xs ++ ys) s u where
  others := fun i hi => by
    rw [List.mem_append, not_or] at hi
    exact (k.others i hi.2).trans (h.others i hi.1)
  own := k.own.trans h.own
  rest := k.rest.trans (by rw [h.rest]; rfl)

theorem marksReports_setGuard (origin : Nat) (arrival : Side) (d : Deadline) (s : State) :
    MarksReports [] s (setGuard origin arrival d s) :=
  ⟨fun _ _ => rfl, rfl, rfl⟩

/-- R82: the view without the two end reports that the restarted node supplied, its guard armed. -/
def clearedFor (i : Ident) (arrival : Side) (origin : Nat) (s : State) : State :=
  setRemote ((origin + i.ring - 1) % i.ring) .eastEnd none
    (setRemote origin .westEnd none (setGuard origin arrival (arm s (4 * s.plan.refresh)) s))

theorem marksReports_clearedFor (i : Ident) (arrival : Side) (origin : Nat) (s : State) :
    MarksReports [origin, (origin + i.ring - 1) % i.ring] s (clearedFor i arrival origin s) :=
  ((marksReports_setGuard origin arrival _ s).trans (marksReports_setRemote origin .westEnd none _)).trans
    (marksReports_setRemote _ .eastEnd none _)

theorem clearedFor_reports (i : Ident) (arrival : Side) (origin : Nat) (s : State) :
    remoteReport (clearedFor i arrival origin s) origin .westEnd = none ∧
      remoteReport (clearedFor i arrival origin s) ((origin + i.ring - 1) % i.ring) .eastEnd = none := by
  refine ⟨?_, remoteReport_setRemote_none _ _ _⟩
  rw [clearedFor, remoteReport_setRemote, if_neg (by simp), remoteReport_setRemote_none]

theorem guardOf_clearedFor {i : Ident} {arrival : Side} {origin : Nat} {s : State}
    (known : origin < (s.nrv.guards.get arrival).length) :
    guardOf (clearedFor i arrival origin s) origin arrival = arm s (4 * s.plan.refresh) :=
  (guardOf_setGuard origin arrival _ s origin arrival).trans ((if_pos ⟨rfl, rfl⟩).trans (if_pos known))

theorem acceptRestart_eq (i : Ident) (arrival : Side) (origin hops : Nat) (f : Frame) (s : State) :
    acceptRestart i arrival origin hops f s =
      post (.restartHeard origin arrival) (relayed arrival true hops f
        (handChanges [origin, (origin + i.ring - 1) % i.ring] (some origin) s
          (recompute [origin, (origin + i.ring - 1) % i.ring] (clearedFor i arrival origin s)))) := by
  rw [← relay_eq_relayed]
  rfl

/-- R82: an accepted Restart Notice arms its guard, clears the origin's reports, goes on round the ring and is posted. -/
theorem acceptRestart_spec (i : Ident) (arrival : Side) (origin hops : Nat) (f : Frame) (s : State)
    (known : origin < (s.nrv.guards.get arrival).length) :
    let west := (origin + i.ring - 1) % i.ring
    let t := acceptRestart i arrival origin hops f s
    ViewUpdated [origin, west] (some origin) s t ∧ guardOf t origin arrival = arm s (4 * s.plan.refresh) ∧
      remoteReport t origin .westEnd = none ∧ remoteReport t west .eastEnd = none ∧
      t.link = (relayed arrival true hops f s).link ∧
      t.mgp.events = joinEvents s.clock (.restartHeard origin arrival) s.mgp.events := by
  have marks := marksReports_clearedFor i arrival origin s
  have view := marks.viewUpdated (some origin)
  obtain ⟨link, clock, mgp, guards, reports⟩ := marks.handed (some origin)
  obtain ⟨clearedWest, clearedEast⟩ := clearedFor_reports i arrival origin s
  have guarded := (guards origin arrival).trans (guardOf_clearedFor known)
  simp only [acceptRestart_eq]
  generalize handChanges _ (some origin) s _ = handed at view link clock mgp guarded reports ⊢
  have relays := leavesView_relayed arrival true hops f handed
  have posts := leavesView_post (.restartHeard origin arrival) (relayed arrival true hops f handed)
  refine ⟨(view.leavesView relays).leavesView posts, ?guard, ?west, ?east, ?link, ?events⟩
  case guard => rw [posts.guardOf, relays.guardOf, guarded]
  case west => rw [posts.remoteReport, relays.remoteReport, reports, clearedWest]
  case east => rw [posts.remoteReport, relays.remoteReport, reports, clearedEast]
  case link => exact relayed_link link clock arrival true hops f
  case events => rw [post, State.setMgp_mgp, relayed_mgp, mgp, relays.noticed.clock, clock]

/-- Settles O41: by the origin and the guard. -/
theorem restartNoticeIsJudged : Obligations.RestartNoticeIsJudged := by
  intro s arrival f l i running known held kind taken origin hops
  have answered : exec (.restartNotice arrival) s = .next (takeRestartNotice arrival f taken) :=
    exec_restartNotice running held kind
  refine ⟨fun ignored => ?ignored, fun notOwn inRing unguarded inTable => ?accepted⟩
  case ignored => exact answered.trans (congrArg _ (takeRestartNotice_ignored (s := taken) known ignored))
  case accepted =>
    have accepted := takeRestartNotice_accepted (s := taken) known notOwn inRing unguarded
    exact ⟨_, answered.trans (congrArg _ accepted), acceptRestart_spec i arrival origin hops f taken inTable⟩

/-! ## Notices without an identity (R84) -/

theorem relayNotice_eq (arrival : Side) (n : Notice) (f : Frame) (s : State) :
    relayNotice arrival n f s =
      if n.origin < 24 ∧ ∀ t, relayRecord s n.origin n.side = some t → newer n.seq t = true then
        relayed arrival true n.hops f (setRelay n.origin n.side (some n.seq) s)
      else s := by
  have passes : (relayRecord s n.origin n.side).all (newer n.seq) = true ↔
      ∀ t, relayRecord s n.origin n.side = some t → newer n.seq t = true := Option.all_eq_true _ _
  simp only [relayNotice, relay_eq_relayed, Config.maxNodes]
  by_cases inRing : n.origin < 24
  · simp only [Nat.not_le.2 inRing, if_false, passes, inRing, true_and]
  · simp only [Nat.not_lt.1 inRing, if_true, inRing, false_and, if_false]

/-- Settles O42: a Span Notice by its relay record, a Restart Notice by its bytes. -/
theorem strangerRelaysNotices : Obligations.StrangerRelaysNotices := by
  intro s arrival f l running stranger held taken
  refine ⟨fun n kind good => ?span, fun kind inRing => ?restart⟩
  case span =>
    have judged : takeSpanNotice arrival f taken = relayNotice arrival n f taken := takeSpanNotice_stranger good stranger
    rw [exec_spanNotice running held kind, judged, relayNotice_eq]
    exact ⟨fun stops => congrArg _ (if_neg stops), fun passes => congrArg _ (if_pos passes)⟩
  case restart =>
    rw [exec_restartNotice running held kind]
    exact congrArg _ (takeRestartNotice_stranger (s := taken) stranger inRing)

end Sys2Proof.Machine
end

section
/-! SUPPORT. Proofs for the hand-offs to the Circuit Logic (06 R90, R105; 10 R164 to R177): which records an entry concerns, what
the evaluation of a group on its detour does, and how a circuit turns home. -/

namespace Sys2Proof.Machine

/-! ## Records of small tables, and actions on them -/

theorem onCircuit_of {s : State} {id : Nat} {c : Circuit} (h : findCircuit s id = some c) (act : Circuit → State → State) :
    onCircuit id act s = act c s := by
  simp only [onCircuit, h]

theorem onEach_cons (id : Nat) (rest : List Nat) (act : Circuit → State → State) (s : State) :
    onEach (id :: rest) act s = onEach rest act (onCircuit id act s) := rfl

/-- An action that leaves the state for each record of the table leaves it for any run of ids. -/
theorem onEach_eq_self {s : State} {act : Circuit → State → State} (h : ∀ c ∈ s.circuits, act c s = s) (ids : List Nat) :
    onEach ids act s = s := by
  induction ids with
  | nil => rfl
  | cons id rest ih =>
    have here : onCircuit id act s = s := by
      unfold onCircuit
      split
      next c found => exact h c (findCircuit_mem found).1
      · rfl
    rw [onEach_cons, here, ih]

/-- With no report between blocks and an empty claim queue nothing is left to do. -/
theorem settled_of_idle {s : State} (work : s.work = []) (queue : s.queue = []) : Settled s := by
  simp only [Settled, settleOnce, work, serveOnce, queue]

section One

variable {s : State} {c : Circuit}

theorem findCircuit_one (one : s.circuits = [c]) : findCircuit s c.id = some c := by
  simp [findCircuit, one]

theorem members_one (one : s.circuits = [c]) : members s [c.id] = [c] := by
  simp [members, findCircuit_one one]

theorem putCircuit_one {d : Circuit} (one : s.circuits = [c]) (id : d.id = c.id) : putCircuit d s = s.setCircuits [d] := by
  simp [putCircuit, one, id]

theorem groupOf_alone (alone : c.bundle = 0) : groupOf s c = [c.id] := if_pos alone

theorem leads_alone (head : c.role = .head) (alone : c.bundle = 0) : leads s c = true := by
  simp [leads, groupOf_alone alone, head]

theorem head_of_leads (h : leads s c = true) : c.role = .head := by
  simp only [leads, Bool.and_eq_true, decide_eq_true_eq] at h
  exact h.1

theorem leads_tail (tail : c.role = .tail) : leads s c = false := by simp [leads, tail]

end One

/-- A table of two heads in one bundle, the first at the bundle's place. -/
structure IsPair (s : State) (c d : Circuit) : Prop where
  circuits : s.circuits = [c, d]
  distinct : c.id ≠ d.id
  first : c.role = .head
  second : d.role = .head
  bundled : c.bundle ≠ 0
  bundle : d.bundle = c.bundle

namespace IsPair

variable {s : State} {c d : Circuit} (h : IsPair s c d)
include h

theorem findCircuit_first : findCircuit s c.id = some c := by simp [findCircuit, h.circuits]

theorem findCircuit_second : findCircuit s d.id = some d := by simp [findCircuit, h.circuits, h.distinct]

theorem members_eq : members s [c.id, d.id] = [c, d] := by
  simp [members, h.findCircuit_first, h.findCircuit_second]

theorem groupOf_first : groupOf s c = [c.id, d.id] := by
  simp [groupOf, h.bundled, h.circuits, h.first, h.second, h.bundle]

theorem groupOf_second : groupOf s d = [c.id, d.id] := by
  simp [groupOf, h.bundled, h.circuits, h.first, h.second, h.bundle]

theorem leads_first : leads s c = true := by simp [leads, h.groupOf_first, h.first]

theorem leads_second : leads s d = false := by simp [leads, h.groupOf_second, h.distinct]

theorem putCircuit_first {x : Circuit} (id : x.id = c.id) : putCircuit x s = s.setCircuits [x, d] := by
  simp [putCircuit, h.circuits, id, h.distinct.symm]

theorem putCircuit_second {x : Circuit} (id : x.id = d.id) : putCircuit x s = s.setCircuits [c, x] := by
  simp [putCircuit, h.circuits, id, h.distinct]

end IsPair

/-- R108: a change of state, posted. -/
theorem moveTo_of_ne {new : CircuitState} {c : Circuit} (changes : c.state ≠ new) (reason : Reason) (f : Circuit → Circuit)
    (s : State) :
    moveTo new reason f c s =
      post (.circuitState c.id new c.state reason)
        (putCircuit
          { f c with
            state := new, reason := if new = .stranded then reason else .none,
            waitToRestore := if new = .waitRestore then (f c).waitToRestore else none } s) := by
  simp only [moveTo, changes, decide_false, Bool.false_and, Bool.false_eq_true, if_false]

/-! ## What a hand-off is to a record (R90, R105, R175 to R177) -/

theorem CircuitState.away_iff (x : CircuitState) : x.away = true ↔ x = .retuning ∨ x = .detoured ∨ x = .waitRestore := by
  cases x <;> simp [CircuitState.away]

theorem Circuit.mayRevert_iff (c : Circuit) :
    c.mayRevert = true ↔ c.role = .tail ∧ (c.state = .retuning ∨ c.state = .detoured) := by
  simp only [Circuit.mayRevert, Bool.and_eq_true, Bool.or_eq_true, decide_eq_true_eq]

section Hand

variable {s : State} {c : Circuit} {h : CclHand}

theorem CclHand.breaks_iff : h.breaks s c = true ↔ c.state.away = true ∧
    (h.second = true ∨ ∃ node, h.restart = some node ∧ (c.z = node ∨ node ∈ arcInner s.ring c.a c.z c.detourDir)) := by
  simp only [CclHand.breaks, restartBreaks, Bool.and_eq_true, Bool.or_eq_true, Option.any_eq_true, decide_eq_true_eq,
    List.contains_iff_mem]

theorem CclHand.ends_iff : h.ends c = true ↔ h.second = true ∧ c.state = .claiming := by
  simp only [CclHand.ends, Bool.and_eq_true, decide_eq_true_eq]

/-- A hand-off without a restart breaks no detour and ends no attempt. -/
theorem CclHand.breaks_plain (restart : h.restart = none) (second : h.second = false) : h.breaks s c = false := by
  simp [CclHand.breaks, restart, second]

theorem CclHand.ends_plain (second : h.second = false) : h.ends c = false := by simp [CclHand.ends, second]

theorem CclHand.concerns_of_status {span : Nat} {old new : SpanStatus} (changed : .status span old new ∈ h.changes)
    (onArc : span ∈ workArc s c) : h.concerns s c = true := by
  refine Bool.or_eq_true_iff.2 (.inr (List.any_eq_true.2 ⟨_, changed, ?_⟩))
  simp only [SpanChange.concerns, Bool.or_eq_true, List.contains_iff_mem]
  exact .inl onArc

theorem CclHand.not_concerns (map : h.map = none)
    (status : ∀ i old new, .status i old new ∈ h.changes → i ∉ workArc s c ∧ i ∉ detourArc s c)
    (locked : ∀ i set, .locked i set ∈ h.changes → i ∉ detourArc s c)
    (degraded : ∀ i set, .degraded i set ∈ h.changes → i ∉ workArc s c) : h.concerns s c = false := by
  have unconcerned : ∀ x ∈ h.changes, ¬ x.concerns s c = true := by
    intro x hx
    cases x with
    | status i old new => simp [SpanChange.concerns, status i old new hx]
    | locked i set => simp [SpanChange.concerns, locked i set hx]
    | degraded i set => simp [SpanChange.concerns, degraded i set hx]
  simpa [CclHand.concerns, map] using unconcerned

theorem mem_failedSpans_of_changes {changes : List SpanChange} {i : Nat} :
    i ∈ changes.filterMap SpanChange.failedSpan ↔ ∃ old, .status i old .failed ∈ changes := by
  rw [List.mem_filterMap]
  constructor
  · rintro ⟨x, hx, named⟩
    unfold SpanChange.failedSpan at named
    split at named
    · obtain rfl := Option.some.inj named
      exact ⟨_, hx⟩
    · cases named
  · rintro ⟨old, hx⟩
    exact ⟨_, hx, rfl⟩

theorem CclHand.reverts_iff : h.reverts s c = true ↔ c.mayRevert = true ∧
    ((∃ span old, .status span old .failed ∈ h.changes ∧ span ∈ detourArc s c) ∨ h.restart = some c.headNode) := by
  have failed : ((detourArc s c).any fun i => (h.changes.filterMap SpanChange.failedSpan).contains i) = true ↔
      ∃ span old, .status span old .failed ∈ h.changes ∧ span ∈ detourArc s c := by
    simp only [List.any_eq_true, List.contains_iff_mem, mem_failedSpans_of_changes]
    exact ⟨fun ⟨i, onArc, old, changed⟩ => ⟨i, old, changed, onArc⟩, fun ⟨i, old, changed, onArc⟩ => ⟨i, onArc, old, changed⟩⟩
  simp only [CclHand.reverts, tailFailed, Bool.or_eq_true, Bool.and_eq_true, failed, decide_eq_true_eq, and_or_left]

theorem CclHand.reverts_head (head : c.role = .head) : h.reverts s c = false := by
  simp [CclHand.reverts, tailFailed, Circuit.mayRevert, head]

theorem takeRestarts_idle (head : c.role = .head → h.breaks s c = false ∧ h.ends c = false) (tail : h.reverts s c = false) :
    takeRestarts h c s = s := by
  unfold takeRestarts
  split
  next lead =>
    obtain ⟨breaks, ends⟩ := head (head_of_leads lead)
    simp only [breaks, ends, Bool.false_eq_true, if_false]
  · simp only [tail, Bool.false_eq_true, if_false]

theorem evaluateHand_idle
    (head : c.role = .head → h.breaks s c = false ∧ h.ends c = false ∧ h.concerns s c = false) : evaluateHand h c s = s := by
  simp only [evaluateHand]
  split
  next lead =>
    obtain ⟨breaks, ends, concerns⟩ := head (head_of_leads lead)
    simp only [breaks, ends, concerns, Bool.false_eq_true, if_false]
  · rfl

theorem evaluateHand_of_not_leads (follows : leads s c = false) : evaluateHand h c s = s := by
  simp only [evaluateHand, follows, Bool.false_eq_true, if_false]

/-- R90: changes alone that concern a head have its group evaluated. -/
theorem evaluateHand_plain (lead : leads s c = true) (restart : h.restart = none) (second : h.second = false)
    (concerns : h.concerns s c = true) : evaluateHand h c s = evaluate (groupOf s c) s := by
  simp only [evaluateHand, lead, CclHand.breaks_plain restart second, CclHand.ends_plain second, concerns, if_true,
    Bool.false_eq_true, if_false]

theorem takeRestarts_plain_head (head : c.role = .head) (restart : h.restart = none) (second : h.second = false) :
    takeRestarts h c s = s :=
  takeRestarts_idle (fun _ => ⟨CclHand.breaks_plain restart second, CclHand.ends_plain second⟩) (CclHand.reverts_head head)

theorem takeHand_one {d : Circuit} (one : s.circuits = [c]) (after : (takeRestarts h c s).circuits = [d]) (id : d.id = c.id) :
    takeHand h s = evaluateHand h d (takeRestarts h c s) := by
  simp only [takeHand, one, List.map_cons, List.map_nil, onEach_cons, onCircuit_of (findCircuit_one one)]
  exact onCircuit_of (id ▸ findCircuit_one after) _

/-- Changes on the working arc of a lone head have it evaluated. -/
theorem takeHand_loneHead (one : s.circuits = [c]) (head : c.role = .head) (alone : c.bundle = 0) (restart : h.restart = none)
    (second : h.second = false) (concerns : h.concerns s c = true) : takeHand h s = evaluate [c.id] s := by
  have kept := takeRestarts_plain_head (s := s) head restart second
  rw [takeHand_one one (kept.symm ▸ one) rfl, kept, evaluateHand_plain (leads_alone head alone) restart second concerns,
    groupOf_alone alone]

/-- Changes on the working arc of a bundle have it evaluated once, at its first member's place. -/
theorem takeHand_pair {d : Circuit} (pair : IsPair s c d) (restart : h.restart = none) (second : h.second = false)
    (concerns : h.concerns s c = true) :
    takeHand h s = onCircuit d.id (evaluateHand h) (evaluate [c.id, d.id] s) := by
  have kept : ∀ ids, onEach ids (takeRestarts h) s = s := by
    refine onEach_eq_self fun x hx => ?_
    simp only [pair.circuits, List.mem_cons, List.not_mem_nil, or_false] at hx
    obtain rfl | rfl := hx
    · exact takeRestarts_plain_head pair.first restart second
    · exact takeRestarts_plain_head pair.second restart second
  have evaluated : evaluateHand h c s = evaluate [c.id, d.id] s := by
    rw [evaluateHand_plain pair.leads_first restart second concerns, pair.groupOf_first]
  simp only [takeHand, kept, pair.circuits, List.map_cons, List.map_nil, onEach_cons, onCircuit_of pair.findCircuit_first,
    evaluated]
  rfl

end Hand

/-! ## Evaluation on the detour (R88, R164 to R166) -/

section Evaluation

variable {s : State} {group : List Nat} {c : Circuit} {cs : List Circuit}

theorem arcFailed_of_usable {spans : List Nat} (h : arcUsable s spans = true) : arcFailed s spans = false := by
  simp only [arcUsable, List.all_eq_true, decide_eq_true_eq] at h
  simp only [arcFailed, List.any_eq_false, decide_eq_true_eq]
  exact fun i hi => by simp [h i hi]

/-- A group away from its working arc, with no Failed span of a detour arc and no Pin, is checked for restoration. -/
theorem evaluate_away (found : members s group = c :: cs) (away : ∀ d ∈ c :: cs, d.state.away = true)
    (sound : ∀ d ∈ c :: cs, arcFailed s (detourArc s d) = false) (unpinned : ∀ d ∈ c :: cs, d.request ≠ .pin) :
    evaluate group s = restoreCheck group s := by
  have off (x : CircuitState) (still : x.away = false) : c.state ≠ x := fun at' => by
    have := away c List.mem_cons_self
    rw [at', still] at this
    cases this
  have allAway : (c :: cs).all (fun d => d.state.away) = true := List.all_eq_true.2 away
  have noneFailed : (c :: cs).any (fun d => arcFailed s (detourArc s d)) = false :=
    List.any_eq_false.2 fun d hd => by simp [sound d hd]
  have nonePinned : (c :: cs).any (fun d => decide (d.request = .pin)) = false :=
    List.any_eq_false.2 fun d hd => by simp [unpinned d hd]
  simp only [evaluate, found, allAway, noneFailed, nonePinned]
  simp [off .working rfl, off .stranded rfl, off .queued rfl, off .claiming rfl]

theorem wanted_none (unasked : ∀ d ∈ members s group, d.request = .none)
    (usable : ∀ d ∈ members s group, arcUsable s (workArc s d) = true)
    (sound : ∀ d ∈ members s group, ∀ i ∈ workArc s d, degradedOf s i = false) : wanted s group = none := by
  have unrequested (r : Request) (other : r ≠ .none) : (members s group).any (fun d => decide (d.request = r)) = false :=
    List.any_eq_false.2 fun d hd => by simp [unasked d hd, other.symm]
  have uncut : (members s group).any (cutStands s) = false :=
    List.any_eq_false.2 fun d hd => by simp [cutStands, arcFailed_of_usable (usable d hd)]
  have undegraded : (members s group).any (degradeStands s) = false :=
    List.any_eq_false.2 fun d hd => by simpa [degradeStands] using fun i hi degraded => by simp [sound d hd i hi] at degraded
  simp [wanted, unrequested, uncut, undegraded]

theorem mayRestore_iff : mayRestore s group = true ↔ wanted s group = none ∧
    ∀ d ∈ members s group, d.revertive = true ∧ d.request ≠ .pin ∧ arcUsable s (workArc s d) = true := by
  simp only [mayRestore, Bool.and_eq_true, Option.isNone_iff_eq_none, List.all_eq_true, and_assoc, decide_eq_true_eq]

/-- The group's record in WAIT_RESTORE, its deadline armed (R165). -/
def Circuit.waiting (s : State) (c : Circuit) : Circuit :=
  { c with state := .waitRestore, reason := .none, waitToRestore := arm s s.plan.waitToRestore }

/-- R164: a group in DETOURED that may restore waits to. -/
theorem restoreCheck_waits (may : mayRestore s group = true) (there : ∀ d ∈ members s group, d.state = .detoured) :
    restoreCheck group s =
      onEach group (moveTo .waitRestore .none fun c => { c with waitToRestore := arm s s.plan.waitToRestore }) s := by
  have allThere : (members s group).all (fun d => decide (d.state = .detoured)) = true :=
    List.all_eq_true.2 fun d hd => decide_eq_true (there d hd)
  simp only [restoreCheck, may, allThere, if_true]

/-- R166: a group that may not restore goes back from WAIT_RESTORE. -/
theorem restoreCheck_back (mayNot : mayRestore s group = false) :
    restoreCheck group s =
      onEach group (fun c => if c.state = .waitRestore then moveTo .detoured .none id c else id) s := by
  simp only [restoreCheck, mayNot, Bool.false_eq_true, if_false]

theorem moveTo_waitRestore {x : State} (there : c.state = .detoured) :
    moveTo .waitRestore .none (fun c => { c with waitToRestore := arm s s.plan.waitToRestore }) c x =
      post (.circuitState c.id .waitRestore .detoured .none) (putCircuit (c.waiting s) x) := by
  rw [moveTo_of_ne (by simp [there]), there]
  rfl

/-- A lone head in DETOURED whose working arc is sound again waits to restore. -/
theorem restoreCheck_loneHead_waits (one : s.circuits = [c]) (there : c.state = .detoured) (may : mayRestore s [c.id] = true) :
    restoreCheck [c.id] s = post (.circuitState c.id .waitRestore .detoured .none) (s.setCircuits [c.waiting s]) := by
  rw [restoreCheck_waits may (by simpa [members_one one] using there), onEach_cons, onCircuit_of (findCircuit_one one),
    moveTo_waitRestore there, putCircuit_one (d := c.waiting s) one rfl]
  rfl

/-- A record gone back to DETOURED from WAIT_RESTORE (R166). -/
def Circuit.backAgain (c : Circuit) : Circuit := { c with state := .detoured, reason := .none, waitToRestore := none }

theorem moveTo_backAgain {x : State} (waiting : c.state = .waitRestore) :
    moveTo .detoured .none id c x = post (.circuitState c.id .detoured .waitRestore .none) (putCircuit c.backAgain x) := by
  rw [moveTo_of_ne (by simp [waiting]), waiting]
  rfl

/-- A lone head in WAIT_RESTORE that may no longer restore goes back to DETOURED. -/
theorem restoreCheck_loneHead_back (one : s.circuits = [c]) (waiting : c.state = .waitRestore)
    (mayNot : mayRestore s [c.id] = false) :
    restoreCheck [c.id] s = post (.circuitState c.id .detoured .waitRestore .none) (s.setCircuits [c.backAgain]) := by
  rw [restoreCheck_back mayNot, onEach_cons, onCircuit_of (findCircuit_one one), if_pos waiting, moveTo_backAgain waiting,
    putCircuit_one (d := c.backAgain) one rfl]
  rfl

/-- A bundle of two in DETOURED waits to restore together. -/
theorem restoreCheck_pair_waits {d : Circuit} (pair : IsPair s c d) (first : c.state = .detoured) (second : d.state = .detoured)
    (may : mayRestore s [c.id, d.id] = true) :
    restoreCheck [c.id, d.id] s = post (.circuitState d.id .waitRestore .detoured .none)
      (post (.circuitState c.id .waitRestore .detoured .none) (s.setCircuits [c.waiting s, d.waiting s])) := by
  have there : ∀ x ∈ members s [c.id, d.id], x.state = .detoured := by simp [pair.members_eq, first, second]
  let moved := post (.circuitState c.id .waitRestore .detoured .none) (s.setCircuits [c.waiting s, d])
  have between : IsPair moved (c.waiting s) d := ⟨rfl, pair.distinct, pair.first, pair.second, pair.bundled, pair.bundle⟩
  rw [restoreCheck_waits may there, onEach_cons, onCircuit_of pair.findCircuit_first, moveTo_waitRestore first,
    pair.putCircuit_first (x := c.waiting s) rfl, onEach_cons, onCircuit_of between.findCircuit_second,
    moveTo_waitRestore second, between.putCircuit_second (x := d.waiting s) rfl]
  rfl

/-- A group in DETOURED that may not restore stays. -/
theorem restoreCheck_stays (mayNot : mayRestore s group = false) (there : ∀ d ∈ s.circuits, d.state = .detoured) :
    restoreCheck group s = s := by
  rw [restoreCheck_back mayNot]
  refine onEach_eq_self (fun d hd => ?_) group
  rw [if_neg (by simp [there d hd])]
  rfl

end Evaluation

/-! ## Turning home (R104, 10 R167 to R170) -/

section TurnHome

variable {s : State}

/-- 09 R155, R158: a port that takes slot `i` for a step is in STEPPING. -/
theorem takeSlot_step {i port : Nat} (asks : (portAt s port).request = .step) :
    takeSlot i port s =
      setPort port { portAt s port with state := .stepping }
        (s.setTpc ⟨s.tpc.ports, modifyAt i (fun _ => ⟨some port, arm s s.plan.stepInterval⟩) s.tpc.slots,
          s.tpc.waiting.filter (· ≠ port)⟩) := by
  have same : portAt ((leaveWait port s).setTpc { (leaveWait port s).tpc with
      slots := modifyAt i (fun _ => ⟨some port, arm s s.plan.stepInterval⟩) (leaveWait port s).tpc.slots }) port =
      portAt s port := rfl
  simp only [takeSlot, beginSlot, same, asks]
  rfl

theorem needSlot_step {i port : Nat} (still : (portAt s port).moving = false) (free : freeSlotIndex s = some i) :
    needSlot port .step s = takeSlot i port (setPort port { portAt s port with request := .step } s) := by
  have left : freeSlotIndex (setPort port { portAt s port with request := .step } s) = some i := free
  simp only [needSlot, still, left, Bool.false_eq_true, if_false]

theorem retune_idle {port lane : Nat} (may : mayStepAtOnce s port lane) :
    retune port lane s = needSlot port .step (setPort port { portAt s port with target := some lane } s) := by
  obtain ⟨-, lt, onLane, idle, elsewhere, offList, -⟩ := may
  rw [retune, if_pos (by simp [lt, onLane, Config.ports, Config.lanes])]
  simp only [retuneByState, idle, offList, elsewhere, Bool.false_eq_true, if_false]

/-- 09 R158: an IDLE port on another lane starts to step when a slot is free, and nothing but the ports changes. -/
theorem retune_atOnce {port lane : Nat} (may : mayStepAtOnce s port lane) :
    ∃ tpc, retune port lane s = s.setTpc tpc ∧ portAt (s.setTpc tpc) port =
      { portAt s port with target := some lane, request := .step, state := .stepping } := by
  have asks := retune_idle may
  obtain ⟨ports, lt, -, idle, -, -, free⟩ := may
  have known : port < s.tpc.ports.length := ports ▸ lt
  obtain ⟨i, slot⟩ := Option.ne_none_iff_exists'.1 free
  let held := setPort port { portAt s port with target := some lane } s
  let asked := setPort port { portAt held port with request := .step } held
  have inHeld : portAt held port = { portAt s port with target := some lane } := portAt_setPort_of known _
  have inAsked : portAt asked port = { portAt held port with request := .step } :=
    portAt_setPort_of (by simpa [held] using known) _
  have still : (portAt held port).moving = false := by simp [inHeld, Port.moving, idle]
  have taken : retune port lane s = takeSlot i port asked := asks.trans (needSlot_step still slot)
  have stepping := takeSlot_step (s := asked) (i := i) (port := port) (by rw [inAsked])
  refine ⟨_, taken.trans stepping, ?_⟩
  exact (portAt_setPort_of (by simpa [asked, held] using known) _).trans (by rw [inAsked, inHeld])

/-- R167 to R170: what a circuit leaves that turns home while its port may step at once. -/
theorem moveTo_turnHome {c : Circuit} {lane : Nat} (may : mayStepAtOnce s c.portNo c.lane) (away : c.state ≠ .reverting) :
    let t := moveTo .reverting .none (Circuit.reverting lane) c (turnHome lane c s)
    TurnsHome c lane s t ∧ t.toCcl = s.toCcl ∧ t.link = s.link ∧ t.lanes = s.lanes ∧ t.work = s.work := by
  obtain ⟨switched, written⟩ : ∃ l : Lsd, l =
    (s.lsd.write c.workSide c.lane (.addDrop c.portNo) (some c.id)).undo c.detourSide lane (.addDrop c.portNo) none := ⟨_, rfl⟩
  obtain ⟨tpc, retuned, port⟩ := retune_atOnce (s := s.setLsd switched) may
  have home : turnHome lane c s = (s.setLsd switched).setTpc tpc := by rw [← retuned, written]; rfl
  simp only [home, moveTo_of_ne away]
  exact ⟨⟨rfl, written, port, rfl, rfl, rfl, rfl, rfl, rfl⟩, rfl, rfl, rfl, rfl⟩

end TurnHome

/-! ## Taking a hand-off (R177) -/

section Taking

variable {s : State} {command : Instr} {hand : CclHand} {rest : List CclHand}

theorem takeOldest_of {mine : CclHand → Bool} (running : s.running = true) (waiting : s.toCcl = hand :: rest)
    (own : mine hand = true) : takeOldest mine s = settle (takeHand hand (s.setToCcl rest)) := by
  simp only [takeOldest, waiting, running, own, Bool.and_self, if_true]

/-- The command of an entry is the one of the weightiest hand-off in it. -/
def TakesHand (command : Instr) (hand : CclHand) : Prop :=
  command = .cclSpanChange ∧ hand.restart = none ∧ hand.second = false ∧ hand.map = none ∨
    command = .cclSegmentMap ∧ hand.restart = none ∧ hand.second = false ∧ hand.map ≠ none ∨
    command = .cclRestart ∧ hand.restart ≠ none ∨
    command = .cclSecondRestart ∧ hand.restart = none ∧ hand.second = true

theorem exec_takesHand (takes : TakesHand command hand) (running : s.running = true) (waiting : s.toCcl = hand :: rest) :
    exec command s = .next (settle (takeHand hand (s.setToCcl rest))) := by
  obtain ⟨rfl, restart, second, map⟩ | ⟨rfl, restart, second, map⟩ | ⟨rfl, restart⟩ | ⟨rfl, restart, second⟩ := takes
  · exact congrArg _ (takeOldest_of running waiting (by simp [restart, second, map]))
  · exact congrArg _ (takeOldest_of running waiting (by simp [restart, second, Option.isSome_iff_ne_none, map]))
  · exact congrArg _ (takeOldest_of running waiting (Option.isSome_iff_ne_none.2 restart))
  · exact congrArg _ (takeOldest_of running waiting (by simp [restart, second]))

/-- What the Circuit Logic takes of an entry at a head that it does not concern: nothing. -/
theorem unconcerned_head {c : Circuit} (map : hand.map = none)
    (status : ∀ i old new, .status i old new ∈ hand.changes → i ∉ workArc s c ∧ i ∉ detourArc s c)
    (locked : ∀ i set, .locked i set ∈ hand.changes → i ∉ detourArc s c)
    (degraded : ∀ i set, .degraded i set ∈ hand.changes → i ∉ workArc s c)
    (restart : ∀ node, hand.restart = some node → c.state.away = true →
      node ≠ c.z ∧ node ∉ arcInner s.ring c.a c.z c.detourDir)
    (second : hand.second = true → ¬ c.state.away = true ∧ c.state ≠ .claiming) :
    hand.breaks s c = false ∧ hand.ends c = false ∧ hand.concerns s c = false := by
  refine ⟨?breaks, ?ends, CclHand.not_concerns map status locked degraded⟩
  case breaks =>
    rw [← Bool.not_eq_true, CclHand.breaks_iff]
    rintro ⟨away, again | ⟨node, restarted, onArc⟩⟩
    · exact (second again).1 away
    · obtain ⟨notTail, notInner⟩ := restart node restarted away
      exact onArc.elim (fun eq => notTail eq.symm) notInner
  case ends =>
    rw [← Bool.not_eq_true, CclHand.ends_iff]
    exact fun ⟨again, claiming⟩ => (second again).2 claiming

theorem unconcerned_tail {c : Circuit}
    (kept : c.role = .tail → c.state = .retuning ∨ c.state = .detoured →
      (∀ i old, .status i old .failed ∈ hand.changes → i ∉ detourArc s c) ∧ hand.restart ≠ some c.headNode) :
    hand.reverts s c = false := by
  rw [← Bool.not_eq_true, CclHand.reverts_iff, Circuit.mayRevert_iff]
  rintro ⟨⟨tail, there⟩, ⟨span, old, failed, onArc⟩ | restarted⟩
  · exact (kept tail there).1 span old failed onArc
  · exact (kept tail there).2 restarted

/-- An entry that concerns no record of the table changes nothing. -/
theorem takeHand_unconcerned
    (heads : ∀ c ∈ s.circuits, c.role = .head → hand.breaks s c = false ∧ hand.ends c = false ∧ hand.concerns s c = false)
    (tails : ∀ c ∈ s.circuits, hand.reverts s c = false) : takeHand hand s = s := by
  have taken (ids : List Nat) : onEach ids (takeRestarts hand) s = s :=
    onEach_eq_self (fun c hc => takeRestarts_idle (fun head =>
      have ⟨breaks, ends, _⟩ := heads c hc head
      ⟨breaks, ends⟩) (tails c hc)) ids
  have evaluated (ids : List Nat) : onEach ids (evaluateHand hand) s = s :=
    onEach_eq_self (fun c hc => evaluateHand_idle (heads c hc)) ids
  simp only [takeHand, taken, evaluated]

theorem settle_idle (work : s.work = []) (queue : s.queue = []) : settle s = s :=
  settle_settled (settled_of_idle work queue)

/-! ### Waiting to restore -/

section Waiting

variable {c d : Circuit}

/-- R90: a status change on its working arc has a head evaluated; one that is away on a sound detour arc, unpinned, is checked
for restoration. -/
theorem takeHand_loneHead_away (one : s.circuits = [c]) (head : c.role = .head) (alone : c.bundle = 0)
    (restart : hand.restart = none) (second : hand.second = false) (concerns : hand.concerns s c = true)
    (away : c.state.away = true) (sound : arcFailed s (detourArc s c) = false) (unpinned : c.request ≠ .pin) :
    takeHand hand s = restoreCheck [c.id] s := by
  rw [takeHand_loneHead one head alone restart second concerns]
  exact evaluate_away (members_one one) (by simpa using away) (by simpa using sound) (by simpa using unpinned)

theorem mayRestore_loneHead (one : s.circuits = [c]) (revertive : c.revertive = true) (unasked : c.request = .none)
    (usable : arcUsable s (workArc s c) = true) (undegraded : ∀ i ∈ workArc s c, degradedOf s i = false) :
    mayRestore s [c.id] = true := by
  have wanted : wanted s [c.id] = none :=
    wanted_none (by simpa [members_one one] using unasked) (by simpa [members_one one] using usable)
      (by simpa [members_one one] using undegraded)
  exact mayRestore_iff.2 ⟨wanted, by simp [members_one one, revertive, unasked, usable]⟩

theorem not_mayRestore_loneHead (one : s.circuits = [c]) (unusable : arcUsable s (workArc s c) = false) :
    mayRestore s [c.id] = false := by
  rw [← Bool.not_eq_true, mayRestore_iff]
  rintro ⟨-, all⟩
  obtain ⟨-, -, usable⟩ := all c (by simp [members_one one])
  simp [unusable] at usable

/-- The two heads of a bundle share their arcs. -/
structure SharesArcs (c d : Circuit) : Prop where
  a : d.a = c.a
  z : d.z = c.z
  dir : d.dir = c.dir

theorem SharesArcs.workArc_eq (h : SharesArcs c d) (s : State) : workArc s d = workArc s c := by
  simp only [workArc, h.a, h.z, h.dir]

theorem SharesArcs.detourArc_eq (h : SharesArcs c d) (s : State) : detourArc s d = detourArc s c := by
  simp only [detourArc, Circuit.detourDir, h.a, h.z, h.dir]

/-- A bundle of two in DETOURED on a sound detour arc, its working arc sound and no request stored: an entry that concerns it
brings it to WAIT_RESTORE, together, when both members are revertive. -/
structure PairReady (hand : CclHand) (s : State) (c d : Circuit) : Prop extends IsPair s c d, SharesArcs c d where
  restart : hand.restart = none
  noSecond : hand.second = false
  concerns : hand.concerns s c = true
  thereFirst : c.state = .detoured
  thereSecond : d.state = .detoured
  sound : arcFailed s (detourArc s c) = false
  firstUnasked : c.request = .none
  secondUnasked : d.request = .none
  usable : arcUsable s (workArc s c) = true
  undegraded : ∀ i ∈ workArc s c, degradedOf s i = false

theorem PairReady.takeHand_eq (h : PairReady hand s c d) :
    takeHand hand s = onCircuit d.id (evaluateHand hand) (restoreCheck [c.id, d.id] s) := by
  rw [takeHand_pair h.toIsPair h.restart h.noSecond h.concerns, evaluate_away h.members_eq]
  · simp [h.thereFirst, h.thereSecond, CircuitState.away]
  · simp [h.detourArc_eq, h.sound]
  · simp [h.firstUnasked, h.secondUnasked]

theorem PairReady.mayRestore_iff (h : PairReady hand s c d) :
    mayRestore s [c.id, d.id] = true ↔ c.revertive = true ∧ d.revertive = true := by
  have wanted : wanted s [c.id, d.id] = none :=
    wanted_none (by simp [h.members_eq, h.firstUnasked, h.secondUnasked])
      (by simp [h.members_eq, h.workArc_eq, h.usable])
      (by simpa [h.members_eq, h.workArc_eq] using h.undegraded)
  simp [Machine.mayRestore_iff, wanted, h.members_eq, h.workArc_eq, h.usable, h.firstUnasked, h.secondUnasked]

/-- The second member of a bundle has been evaluated with the first. -/
theorem IsPair.evaluateHand_second (pair : IsPair s c d) : onCircuit d.id (evaluateHand hand) s = s :=
  (onCircuit_of pair.findCircuit_second _).trans (evaluateHand_of_not_leads pair.leads_second)

theorem PairReady.waits (h : PairReady hand s c d) (first : c.revertive = true) (second : d.revertive = true) :
    takeHand hand s = post (.circuitState d.id .waitRestore .detoured .none)
      (post (.circuitState c.id .waitRestore .detoured .none) (s.setCircuits [c.waiting s, d.waiting s])) := by
  rw [h.takeHand_eq, restoreCheck_pair_waits h.toIsPair h.thereFirst h.thereSecond (h.mayRestore_iff.2 ⟨first, second⟩)]
  exact IsPair.evaluateHand_second (c := c.waiting s) (d := d.waiting s)
    ⟨rfl, h.distinct, h.first, h.second, h.bundled, h.bundle⟩

theorem PairReady.stays (h : PairReady hand s c d) (fixed : c.revertive = false ∨ d.revertive = false) :
    takeHand hand s = s := by
  have mayNot : mayRestore s [c.id, d.id] = false := by
    rw [← Bool.not_eq_true, h.mayRestore_iff]
    rintro ⟨first, second⟩
    simp [first, second] at fixed
  rw [h.takeHand_eq, restoreCheck_stays mayNot (by simp [h.circuits, h.thereFirst, h.thereSecond])]
  exact h.toIsPair.evaluateHand_second

end Waiting

/-! ### The tail turns home -/

/-- R105: a lone tail that an entry reverts turns home. -/
theorem takeHand_tail {c : Circuit} {lane : Nat} (one : s.circuits = [c]) (tail : c.role = .tail)
    (reverts : hand.reverts s c = true) (held : c.detour = some lane) (may : mayStepAtOnce s c.portNo c.lane) :
    let t := takeHand hand s
    TurnsHome c lane s t ∧ t.toCcl = s.toCcl ∧ t.link = s.link ∧ t.lanes = s.lanes ∧ t.work = s.work := by
  have away : c.state ≠ .reverting := by
    obtain ⟨-, there | there⟩ := c.mayRevert_iff.1 (CclHand.reverts_iff.1 reverts).1
    · simp [there]
    · simp [there]
  obtain ⟨turned, kept⟩ := moveTo_turnHome (lane := lane) may away
  have started : takeRestarts hand c s = moveTo .reverting .none (Circuit.reverting lane) c (turnHome lane c s) := by
    simp only [takeRestarts, leads_tail tail, reverts, tailRevert, held, Bool.false_eq_true, if_false, if_true]
  rw [← started] at turned kept
  have after := turned.circuits
  rw [one, List.map_singleton, if_pos rfl] at after
  have taken : takeHand hand s = takeRestarts hand c s :=
    (takeHand_one one after rfl).trans (evaluateHand_of_not_leads (leads_tail tail))
  simp only [taken]
  exact ⟨turned, kept⟩

end Taking

/-- Settles O47: the command takes the entry, quietly; an entry that concerns nothing is taken alone; a change of the working arc
has the heads checked for restoration; and a tail that is reverted turns home. -/
theorem circuitHandOffsAreTaken : Obligations.CircuitHandOffsAreTaken := by
  intro s command hand rest running waiting takes taken away
  have answered : exec command s = .next (settle (takeHand hand taken)) := exec_takesHand takes running waiting
  have answers {t : State} (h : takeHand hand taken = t) (settled : settle t = t) : exec command s = .next t := by
    rw [answered, h, settled]
  have quiet : Quiet taken (settle (takeHand hand taken)) :=
    (calm_takeHand hand taken).quiet.trans (windowed_settle _).quiet
  have away_iff (c : Circuit) : c.state.away = true ↔ away c := c.state.away_iff
  refine ⟨⟨_, answered, quiet⟩, fun settled heads tails => ?unconcerned, fun work queue => ?_⟩
  case unconcerned =>
    refine answers (takeHand_unconcerned (fun c hc head => ?_) fun c hc => unconcerned_tail (tails c hc))
      (settle_settled (settled.same rfl rfl rfl))
    obtain ⟨map, status, locked, degraded, restart, second⟩ := heads c hc head
    simp only [← away_iff] at restart second
    exact unconcerned_head map status locked degraded restart second
  intro changed waits back
  have concerned {c : Circuit} (h : changed c) : hand.concerns taken c = true := by
    obtain ⟨span, old, new, inHand, onArc⟩ := h
    exact CclHand.concerns_of_status inHand onArc
  refine ⟨fun c one head alone change restart second sound => ⟨fun there revertive unasked usable undegraded => ?waits,
    fun there unpinned unusable => ?back⟩, fun c d two distinct first second' bundled bundle a z dir change restart second
      sound thereFirst thereSecond firstUnasked secondUnasked usable undegraded => ?pair,
    fun c lane one tail there held may cause => ?tail⟩
  case waits =>
    have checked := takeHand_loneHead_away (s := taken) one head alone restart second (concerned change)
      (by simp [there, CircuitState.away]) sound (by simp [unasked])
    have may := mayRestore_loneHead (s := taken) one revertive unasked usable undegraded
    exact answers (checked.trans (restoreCheck_loneHead_waits one there may)) (settle_idle work queue)
  case back =>
    have checked := takeHand_loneHead_away (s := taken) one head alone restart second (concerned change)
      (by simp [there, CircuitState.away]) sound unpinned
    have mayNot := not_mayRestore_loneHead (s := taken) one unusable
    exact answers (checked.trans (restoreCheck_loneHead_back one there mayNot)) (settle_idle work queue)
  case pair =>
    have ready : PairReady hand taken c d :=
      ⟨⟨two, distinct, first, second', bundled, bundle⟩, ⟨a, z, dir⟩, restart, second, concerned change, thereFirst, thereSecond,
        sound, firstUnasked, secondUnasked, usable, undegraded⟩
    exact ⟨fun revertFirst revertSecond => answers (ready.waits revertFirst revertSecond) (settle_idle work queue),
      fun fixed => answers (ready.stays fixed) (settle_idle work queue)⟩
  case tail =>
    have reverts : hand.reverts taken c = true :=
      CclHand.reverts_iff.2 ⟨c.mayRevert_iff.2 ⟨tail, there⟩, cause⟩
    obtain ⟨turned, toCcl, link, lanes, working⟩ := takeHand_tail (s := taken) one tail reverts held may
    have done := settle_idle (working.trans work) (turned.queue.trans queue)
    refine ⟨_, answers rfl done, ?_, toCcl, link, lanes⟩
    exact ⟨turned.circuits, turned.lsd, turned.port, turned.events, turned.queue, turned.pld, turned.clock, turned.nrv,
      turned.mon⟩

end Sys2Proof.Machine
end

section
/-! SUPPORT. Proofs for the Detour Planner (07): the arithmetic of a detour's delay and reach cost, the checks of a circuit
question in order, the base order and the lane list of a head, and the assignment of lanes to the members of a group. -/

namespace Sys2Proof.Machine

/-! ## Detour delay and reach cost (R114 to R117) -/

/-- R114: 0.49 µs for each 0.1 km, taken up to the next whole µs. -/
theorem fibreDelay_roundsUp (lengths : List Nat) :
    49 * lengths.sum ≤ 100 * fibreDelay lengths ∧ 100 * fibreDelay lengths < 49 * lengths.sum + 100 := by
  unfold fibreDelay
  omega

theorem sum_between {values : List Nat} {low high : Nat} (h : ∀ x ∈ values, low ≤ x ∧ x ≤ high) :
    values.length * low ≤ values.sum ∧ values.sum ≤ values.length * high := by
  induction values with
  | nil => simp only [List.length_nil, List.sum_nil, Nat.zero_mul, Nat.le_refl, and_self]
  | cons value rest ih =>
    obtain ⟨first, others⟩ := List.forall_mem_cons.1 h
    have sums := ih others
    simp only [List.length_cons, List.sum_cons, Nat.succ_mul]
    omega

/-- What at most 22 intermediate nodes add, each at most `most`. -/
theorem intermediate_le {nodes each most : Nat} (nodesLe : nodes ≤ 23) (eachLe : each ≤ most) :
    (nodes - 1) * each ≤ 22 * most :=
  Nat.mul_le_mul (by omega) eachLe

theorem fibreDelay_range {lengths : List Nat} (nonempty : 1 ≤ lengths.length) (few : lengths.length ≤ 23)
    (h : ∀ x ∈ lengths, 1 ≤ x ∧ x ≤ 20000) : 1 ≤ fibreDelay lengths ∧ fibreDelay lengths ≤ 225400 := by
  obtain ⟨low, high⟩ := sum_between h
  unfold fibreDelay
  omega

section Detour
variable {s : State} {c : Circuit}

theorem detourDelay_range (penalty : s.plan.transitPenalty ≤ 255) (few : (detourArc s c).length ≤ 23)
    (fibre : 1 ≤ fibreDelay (arcLengths s (detourArc s c)) ∧ fibreDelay (arcLengths s (detourArc s c)) ≤ 225400) :
    1 ≤ detourDelay s c ∧ detourDelay s c ≤ 231010 := by
  have added := intermediate_le few penalty
  unfold detourDelay
  omega

theorem detourCost_range (passCost : s.plan.passCost ≤ 99) (nonempty : 1 ≤ (detourArc s c).length)
    (few : (detourArc s c).length ≤ 23) (h : ∀ x ∈ arcCosts s (detourArc s c), 1 ≤ x ∧ x ≤ 999) :
    1 ≤ detourCost s c ∧ detourCost s c ≤ 25155 := by
  have added := intermediate_le few passCost
  obtain ⟨low, high⟩ := sum_between h
  rw [arcCosts, List.length_map, ← arcCosts] at low high
  unfold detourCost
  omega

/-! ## The checks of a circuit question (R111 to R113) -/

/-- R113: spans that are all Usable and unlocked have no fault. -/
theorem spanFault_none {spans : List Nat} (pass : ∀ i ∈ spans, statusOf s i = .usable ∧ lockedOf s i = false) :
    spanFault s spans = none := by
  have none : spans.find? (fun i => statusOf s i ≠ .usable || lockedOf s i) = none := by
    simp +contextual [pass]
  simp only [spanFault, none]

/-- R113: the first span in order of travel that does not pass gives the reason. -/
theorem spanFault_first {before after : List Nat} {i : Nat}
    (pass : ∀ x ∈ before, statusOf s x = .usable ∧ lockedOf s x = false)
    (fails : statusOf s i ≠ .usable ∨ lockedOf s i = true) :
    spanFault s (before ++ i :: after) = some (if statusOf s i = .usable then .spanLocked else .spanUnusable) := by
  have first : (before ++ i :: after).find? (fun i => statusOf s i ≠ .usable || lockedOf s i) = some i :=
    List.find?_eq_some_iff_append.2 ⟨by simpa using fails, before, after, rfl, by simpa using pass⟩
  simp only [spanFault, first]

theorem circuitFault_ringSplit (split : segmentOf s c.a ≠ segmentOf s c.z) : circuitFault s c = some .ringSplit :=
  if_pos split

theorem circuitFault_of_spanFault {reason : Reason} (joined : segmentOf s c.a = segmentOf s c.z)
    (fault : spanFault s (detourArc s c) = some reason) : circuitFault s c = some reason := by
  simp only [circuitFault, joined, fault, ne_eq, not_true_eq_false, if_false]

/-- R111: ceiling, allowance and port are judged when the spans pass. -/
theorem circuitFault_of_spans (joined : segmentOf s c.a = segmentOf s c.z) (pass : spanFault s (detourArc s c) = none) :
    circuitFault s c =
      if c.ceiling ≠ 0 ∧ c.ceiling < detourDelay s c then some .delayCeiling
      else if c.allowance ≠ 0 ∧ c.allowance < detourCost s c then some .reachAllowance
      else if (portAt s c.portNo).state = .fault then some .portFault
      else none := by
  simp only [circuitFault, joined, pass, ne_eq, not_true_eq_false, if_false, Bool.and_eq_true, decide_eq_true_eq,
    decide_not, Bool.not_eq_eq_eq_not, Bool.not_true, decide_eq_false_iff_not]

end Detour

/-- Settles O44, from the bounds of the two sums and one equation for each check of a circuit question. -/
theorem detourDelayAndReachCost : Obligations.DetourDelayAndReachCost := by
  intro s c arc length cost fibre delay reach
  obtain ⟨notLess, notMore⟩ := fibreDelay_roundsUp (arcLengths s arc)
  refine ⟨notLess, notMore, rfl, rfl, fun nonempty few lengths penalty => ?delay, fun nonempty few costs passCost => ?cost,
    circuitFault_ringSplit, fun before i after joined split pass => ⟨fun unusable => ?unusable, fun usable locked => ?locked⟩,
    fun joined pass => circuitFault_of_spans joined (spanFault_none pass)⟩
  case delay =>
    have range : 1 ≤ fibre ∧ fibre ≤ 225400 :=
      fibreDelay_range (by simpa [arcLengths] using nonempty) (by simpa [arcLengths] using few) (List.forall_mem_map.2 lengths)
    exact ⟨range.1, range.2, detourDelay_range penalty few range⟩
  case cost => exact detourCost_range passCost nonempty few (List.forall_mem_map.2 costs)
  case unusable =>
    have fault := spanFault_first (after := after) pass (.inl unusable)
    rw [← split, if_neg unusable] at fault
    exact circuitFault_of_spanFault joined fault
  case locked =>
    have fault := spanFault_first (after := after) pass (.inr locked)
    rw [← split, if_pos usable] at fault
    exact circuitFault_of_spanFault joined fault

/-! ## The base order (R118) -/

/-- The lane at a place of the base order: upward from the start lane, round past lane 47 to the spare base. -/
def baseLane (base id k : Nat) : Nat :=
  if base + id % (48 - base) + k < 48 then base + id % (48 - base) + k
  else base + id % (48 - base) + k - (48 - base)

section BaseOrder
variable {base id : Nat}

theorem startOffset_lt (spare : base < 48) : id % (48 - base) < 48 - base := Nat.mod_lt _ (by omega)

theorem baseLane_eq (spare : base < 48) {k : Nat} (lt : k < 48 - base) :
    base + (id + k) % (48 - base) = baseLane base id k := by
  have start := startOffset_lt (id := id) spare
  rw [Nat.add_mod, Nat.mod_eq_of_lt lt]
  unfold baseLane
  split
  · rw [Nat.mod_eq_of_lt (by omega)]
    omega
  · rw [Nat.mod_eq_sub_mod (by omega), Nat.mod_eq_of_lt (by omega)]
    omega

theorem baseOrder_eq (spare : base < 48) : baseOrder base id = (List.range (48 - base)).map (baseLane base id) :=
  List.map_congr_left fun _ mem => baseLane_eq spare (List.mem_range.1 mem)

theorem baseOrder_length (base id : Nat) : (baseOrder base id).length = 48 - base := by
  simp [baseOrder, Config.lanes]

theorem baseOrder_getElem? (spare : base < 48) {k lane : Nat} :
    (baseOrder base id)[k]? = some lane ↔ k < 48 - base ∧ baseLane base id k = lane := by
  rw [baseOrder_eq spare, List.getElem?_map, Option.map_eq_some_iff]
  constructor
  · rintro ⟨place, found, rfl⟩
    obtain ⟨lt, same⟩ := List.getElem?_eq_some_iff.1 found
    rw [List.length_range] at lt
    rw [List.getElem_range] at same
    exact ⟨lt, congrArg (baseLane base id) same⟩
  · rintro ⟨lt, rfl⟩
    exact ⟨k, List.getElem?_range lt, rfl⟩

theorem baseOrder_nodup (spare : base < 48) : (baseOrder base id).Nodup := by
  rw [baseOrder_eq spare, List.Nodup, List.pairwise_map]
  refine List.pairwise_lt_range.imp_of_mem fun {x y} hx hy lt same => ?_
  have start := startOffset_lt (id := id) spare
  rw [List.mem_range] at hx hy
  simp only [baseLane] at same
  split at same <;> split at same <;> omega

/-- Every lane from the spare base to 47 has its place in the base order. -/
theorem baseLane_surjective (spare : base < 48) {lane : Nat} (low : base ≤ lane) (high : lane < 48) :
    ∃ k < 48 - base, baseLane base id k = lane := by
  have start := startOffset_lt (id := id) spare
  simp only [baseLane]
  by_cases ahead : base + id % (48 - base) ≤ lane
  · exact ⟨lane - (base + id % (48 - base)), by omega, by rw [if_pos (by omega)]; omega⟩
  · exact ⟨lane + (48 - base) - (base + id % (48 - base)), by omega, by rw [if_neg (by omega)]; omega⟩

theorem baseLane_spare (spare : base < 48) {k : Nat} (lt : k < 48 - base) :
    base ≤ baseLane base id k ∧ baseLane base id k < 48 := by
  rw [← baseLane_eq spare lt]
  have := Nat.mod_lt (id + k) (show 0 < 48 - base by omega)
  omega

theorem mem_baseOrder (spare : base < 48) {lane : Nat} : lane ∈ baseOrder base id ↔ base ≤ lane ∧ lane < 48 := by
  simp only [baseOrder_eq spare, List.mem_map, List.mem_range]
  constructor
  · rintro ⟨k, lt, rfl⟩
    exact baseLane_spare spare lt
  · rintro ⟨low, high⟩
    exact baseLane_surjective spare low high

theorem spare_of_mem_baseOrder {lane : Nat} (mem : lane ∈ baseOrder base id) : base ≤ lane ∧ lane < 48 := by
  have size := baseOrder_length base id ▸ List.length_pos_of_mem mem
  exact (mem_baseOrder (by omega)).1 mem

theorem baseLane_zero (spare : base < 48) : baseLane base id 0 = base + id % (48 - base) := by
  have start := startOffset_lt (id := id) spare
  simp only [baseLane, Nat.add_zero]
  rw [if_pos (by omega)]

theorem baseLane_succ (spare : base < 48) {k : Nat} (lt : k + 1 < 48 - base) :
    baseLane base id (k + 1) = if baseLane base id k = 47 then base else baseLane base id k + 1 := by
  have start := startOffset_lt (id := id) spare
  simp only [baseLane]
  split <;> split <;> split <;> omega

end BaseOrder

/-! ## The lane list (R119, R120) -/

/-- The base order without the excluded lanes and those that the claim's key may not take. -/
def openLanes (s : State) (urgency : Nat) (c : Circuit) : List Nat :=
  (baseOrder s.plan.spareBase c.id).filter fun lane =>
    !c.excluded.contains lane && laneStays s c.detourSide (circuitKey urgency c) lane

/-- R120: a lane that is in the list goes before it. -/
def GoesFirst (s : State) (urgency : Nat) (c : Circuit) (lane : Nat) : Prop :=
  c.preplanned = some lane ∧ c.cls = .preplanned ∧ c.count = 0 ∧ lane ∈ openLanes s urgency c

section LaneList
variable {s : State} {urgency : Nat} {c : Circuit}

theorem GoesFirst.mem {lane : Nat} (first : GoesFirst s urgency c lane) : lane ∈ openLanes s urgency c :=
  first.2.2.2

theorem laneList_of_goesFirst {lane : Nat} (first : GoesFirst s urgency c lane) :
    laneList s urgency c = lane :: (openLanes s urgency c).filter fun x => x ≠ lane := by
  obtain ⟨planned, cls, count, mem⟩ := first
  have found : (openLanes s urgency c).contains lane = true := List.contains_iff_mem.2 mem
  rw [openLanes] at found ⊢
  simp only [laneList, planned, cls, count, preplannedFirst, found, decide_true, Bool.and_self, if_true]

theorem laneList_of_none_first (noFirst : ∀ lane, ¬ GoesFirst s urgency c lane) :
    laneList s urgency c = openLanes s urgency c := by
  unfold laneList
  split
  next lane planned =>
    split
    next asked =>
      obtain ⟨cls, count⟩ : c.cls = .preplanned ∧ c.count = 0 := by simpa using asked
      have absent : lane ∉ openLanes s urgency c := fun mem => noFirst lane ⟨planned, cls, count, mem⟩
      exact if_neg fun found => absent (List.contains_iff_mem.1 found)
    next => rfl
  next => rfl

theorem mem_laneList {lane : Nat} : lane ∈ laneList s urgency c ↔ lane ∈ openLanes s urgency c := by
  by_cases h : ∃ first, GoesFirst s urgency c first
  · obtain ⟨first, goes⟩ := h
    rw [laneList_of_goesFirst goes, List.mem_cons, List.mem_filter]
    by_cases same : lane = first
    · simp [same, goes.mem]
    · simp [same]
  · rw [laneList_of_none_first (not_exists.1 h)]

/-- No lane list holds a lane that is not spare. -/
theorem spare_of_mem_laneList {lane : Nat} (mem : lane ∈ laneList s urgency c) : s.plan.spareBase ≤ lane ∧ lane < 48 :=
  spare_of_mem_baseOrder (List.mem_filter.1 (mem_laneList.1 mem)).1

end LaneList

/-! ## The assignment of lanes (R122, R123) -/

/-- The lane is the first of a list that is not among those taken. -/
def FirstUntaken (lanes taken : List Nat) (lane : Nat) : Prop :=
  ∃ before after, lanes = before ++ lane :: after ∧ lane ∉ taken ∧ ∀ x ∈ before, x ∈ taken

theorem find?_untaken_iff {lanes taken : List Nat} {lane : Nat} :
    (lanes.find? fun x => !taken.contains x) = some lane ↔ FirstUntaken lanes taken lane := by
  rw [List.find?_eq_some_iff_append, FirstUntaken]
  constructor
  · rintro ⟨untaken, before, after, split, rest⟩
    exact ⟨before, after, split, by simpa using untaken, by simpa using rest⟩
  · rintro ⟨before, after, split, untaken, rest⟩
    exact ⟨by simpa using untaken, before, after, split, by simpa using rest⟩

/-- In what order the lanes were taken says nothing. -/
theorem firstUntaken_congr {lanes xs ys : List Nat} (same : xs.Perm ys) (lane : Nat) :
    FirstUntaken lanes xs lane ↔ FirstUntaken lanes ys lane := by
  simp only [FirstUntaken, same.mem_iff]

theorem FirstUntaken.mem {lanes taken : List Nat} {lane : Nat} (h : FirstUntaken lanes taken lane) : lane ∈ lanes := by
  obtain ⟨before, after, rfl, -, -⟩ := h
  exact List.mem_append_right _ List.mem_cons_self

/-- One lane for each member: each has the first of its list that was not taken from the start and that no member before it
has taken. -/
def Assigns (s : State) (urgency : Nat) (cs : List Circuit) (taken : List Nat) (lanes : List (Nat × Nat)) : Prop :=
  lanes.map (·.1) = cs.map (·.id) ∧ ∀ k c lane, cs[k]? = some c → (lanes.map (·.2))[k]? = some lane →
    FirstUntaken (laneList s urgency c) ((lanes.take k).map (·.2) ++ taken) lane

section Assignment
variable {s : State} {urgency : Nat}

theorem assigns_nil {taken : List Nat} {lanes : List (Nat × Nat)} : Assigns s urgency [] taken lanes ↔ lanes = [] := by
  simp [Assigns]

theorem assigns_cons {c : Circuit} {rest : List Circuit} {taken : List Nat} {lanes : List (Nat × Nat)} :
    Assigns s urgency (c :: rest) taken lanes ↔ ∃ lane more, lanes = (c.id, lane) :: more ∧
      FirstUntaken (laneList s urgency c) taken lane ∧ Assigns s urgency rest (lane :: taken) more := by
  constructor
  · rintro ⟨ids, firsts⟩
    obtain ⟨⟨-, lane⟩, more, rfl, rfl, moreIds⟩ := List.map_eq_cons_iff.1 ids
    refine ⟨lane, more, rfl, firsts 0 c lane rfl rfl, moreIds, fun k d x member given => ?_⟩
    exact (firstUntaken_congr List.perm_middle.symm x).1 (firsts (k + 1) d x member given)
  · rintro ⟨lane, more, rfl, first, moreIds, firsts⟩
    refine ⟨congrArg (c.id :: ·) moreIds, fun k d x member given => ?_⟩
    cases k with
    | zero =>
      obtain rfl : c = d := Option.some.inj member
      obtain rfl : lane = x := Option.some.inj given
      exact first
    | succ k => exact (firstUntaken_congr List.perm_middle x).1 (firsts k d x member given)

/-- R123: the planner's assignment is the one there is, and it fails only where there is none. -/
theorem assignLanes_iff {cs : List Circuit} {taken : List Nat} {lanes : List (Nat × Nat)} :
    assignLanes s urgency cs taken = some lanes ↔ Assigns s urgency cs taken lanes := by
  induction cs generalizing taken lanes with
  | nil => rw [assigns_nil, assignLanes, Option.some.injEq, eq_comm]
  | cons c rest ih =>
    simp only [assigns_cons, ← ih, ← find?_untaken_iff, assignLanes]
    cases (laneList s urgency c).find? fun x => !taken.contains x with
    | none => simp
    | some lane =>
      simp only [Option.map_eq_some_iff, Option.some.injEq]
      constructor
      · rintro ⟨more, given, rfl⟩
        exact ⟨lane, more, rfl, rfl, given⟩
      · rintro ⟨_, more, rfl, rfl, given⟩
        exact ⟨more, given, rfl⟩

theorem Assigns.spare {cs : List Circuit} {taken : List Nat} {lanes : List (Nat × Nat)}
    (h : Assigns s urgency cs taken lanes) {p : Nat × Nat} (mem : p ∈ lanes) : s.plan.spareBase ≤ p.2 ∧ p.2 < 48 := by
  induction cs generalizing taken lanes with
  | nil =>
    obtain rfl := assigns_nil.1 h
    cases mem
  | cons c rest ih =>
    obtain ⟨lane, more, rfl, first, assigned⟩ := assigns_cons.1 h
    obtain rfl | mem := List.mem_cons.1 mem
    · exact spare_of_mem_laneList first.mem
    · exact ih assigned mem

/-! ## The planner's answer (R109, R111, R122) -/

variable {group : List Nat}

theorem ask_of_fault {reason : Reason} (fault : (members s group).findSome? (circuitFault s) = some reason) :
    ask s group urgency = .infeasible reason := by
  simp only [ask, fault]

theorem ask_of_assigned {lanes : List (Nat × Nat)} (pass : ∀ c ∈ members s group, circuitFault s c = none)
    (given : assignLanes s urgency (members s group) [] = some lanes) : ask s group urgency = .feasible lanes := by
  simp only [ask, List.findSome?_eq_none_iff.2 pass, given]

theorem ask_of_unassigned (pass : ∀ c ∈ members s group, circuitFault s c = none)
    (ungiven : assignLanes s urgency (members s group) [] = none) :
    ask s group urgency = .infeasible (if (members s group).length ≤ 1 then .noFreeLane else .bundleFailed) := by
  simp only [ask, List.findSome?_eq_none_iff.2 pass, ungiven]

theorem ask_feasible_iff {lanes : List (Nat × Nat)} : ask s group urgency = .feasible lanes ↔
    (∀ c ∈ members s group, circuitFault s c = none) ∧ Assigns s urgency (members s group) [] lanes := by
  rw [← assignLanes_iff, ← List.findSome?_eq_none_iff]
  cases fault : (members s group).findSome? (circuitFault s) with
  | some reason => simp [ask_of_fault fault]
  | none =>
    have pass := List.findSome?_eq_none_iff.1 fault
    cases given : assignLanes s urgency (members s group) [] with
    | none => simp [ask_of_unassigned pass given]
    | some _ => simp [ask_of_assigned pass given]

/-- A group whose members all pass and that has no lanes fails for its lanes alone; such a group is not empty. -/
theorem ask_noLanes (pass : ∀ c ∈ members s group, circuitFault s c = none)
    (fails : ∀ lanes, ask s group urgency ≠ .feasible lanes) :
    ask s group urgency = .infeasible (if (members s group).length = 1 then .noFreeLane else .bundleFailed) := by
  have unassigned : assignLanes s urgency (members s group) [] = none :=
    Option.eq_none_iff_forall_ne_some.2 fun lanes given => fails lanes (ask_feasible_iff.2 ⟨pass, assignLanes_iff.1 given⟩)
  have nonempty : (members s group).length ≠ 0 := fun empty => by
    rw [List.length_eq_zero_iff.1 empty] at unassigned
    cases unassigned
  have alone : (members s group).length ≤ 1 ↔ (members s group).length = 1 := by omega
  simp only [ask_of_unassigned pass unassigned, alone]

end Assignment

/-- Settles O45, from the base order by place, the lane list by its first lane, and the assignment as it stands member by
member. -/
theorem baseOrderHoldsTheSpareLanes : Obligations.BaseOrderHoldsTheSpareLanes := by
  refine ⟨fun base id spare => ⟨baseOrder_length base id, baseOrder_nodup spare, fun _ => mem_baseOrder spare, ?start, ?follows⟩,
    fun _ _ _ _ mem => spare_of_mem_laneList mem,
    fun _ _ _ _ feasible _ mem => (ask_feasible_iff.1 feasible).2.spare mem,
    fun _ _ _ => ⟨fun _ first => laneList_of_goesFirst first, laneList_of_none_first⟩,
    fun s group urgency => ⟨?reason, fun pass => ⟨fun lanes => ?lanes, ask_noLanes pass⟩⟩⟩
  case start => exact (baseOrder_getElem? spare).2 ⟨by omega, baseLane_zero spare⟩
  case follows =>
    intro k a b here after
    obtain ⟨-, rfl⟩ := (baseOrder_getElem? spare).1 here
    obtain ⟨lt, rfl⟩ := (baseOrder_getElem? spare).1 after
    exact baseLane_succ spare lt
  case reason =>
    intro before c after reason split pass fault
    exact ask_of_fault (List.findSome?_eq_some_iff.2 ⟨before, c, after, split, fault, pass⟩)
  case lanes =>
    rw [ask_feasible_iff, Assigns]
    simp only [List.append_nil]
    exact and_iff_right pass

end Sys2Proof.Machine
end

section
/-! SUPPORT. Proofs for the hand-offs to the Detour Claim Engine (08 R126, R145, R146): what a write does to the cross-connect
records, what freeing an entry and an attempt makes of the Spare Lane Map and of the lane switch, and a pass over the whole
map that frees every claim of a kind. -/

namespace Sys2Proof.Machine

/-! ## The records under a write (09 R149, R151) -/

namespace Lsd

@[simp] theorem start_table (l : Lsd) : l.start.table = l.table := by
  unfold start
  split
  · split <;> rfl
  · rfl

theorem record_setRecord (side x : Side) (lane n : Nat) (r : CrossConnect) (l : Lsd) :
    (l.setRecord side lane r).record x n =
      if x = side ∧ n = lane ∧ lane < (l.table.get side).length then r else l.record x n := by
  simp only [record, setRecord, Both.get_set]
  by_cases same : x = side
  · subst same
    simp only [if_true, true_and, modifyAt_getElem?]
    by_cases here : n = lane
    · subst here
      by_cases within : n < (l.table.get x).length <;> simp [within]
    · simp [here]
  · simp [same]

theorem table_write (side : Side) (lane : Nat) (setting : Setting) (who : Option Nat) (l : Lsd) :
    (l.write side lane setting who).table = (l.setRecord side lane ((l.record side lane).written setting who)).table := by
  simp only [write, start_table]

/-- R151: a write changes its own record alone. -/
theorem record_write (side x : Side) (lane n : Nat) (setting : Setting) (who : Option Nat) (l : Lsd) :
    (l.write side lane setting who).record x n =
      if x = side ∧ n = lane ∧ lane < (l.table.get side).length then (l.record side lane).written setting who
      else l.record x n := by
  rw [← record_setRecord, record, table_write, ← record]

theorem table_length_write (side x : Side) (lane : Nat) (setting : Setting) (who : Option Nat) (l : Lsd) :
    ((l.write side lane setting who).table.get x).length = (l.table.get x).length := by
  rw [table_write, setRecord, Both.get_set]
  split
  next same => rw [modifyAt_length, same]
  next => rfl

end Lsd

/-- R149: a record whose Pass has been undone. -/
def CrossConnect.passUndone (r : CrossConnect) : CrossConnect := if r.latest = .pass then r.written .block none else r

namespace Lsd

/-- R149: an undo Block of a Pass is about its own record alone. -/
theorem record_undo_pass (side x : Side) (lane n : Nat) (l : Lsd) :
    (l.undo side lane .pass none).record x n =
      if x = side ∧ n = lane ∧ lane < (l.table.get side).length then (l.record side lane).passUndone else l.record x n := by
  simp only [undo, CrossConnect.passUndone]
  split
  next => exact record_write side x lane n .block none l
  next =>
    split
    next here => rw [here.1, here.2.1]
    next => rfl

theorem table_length_undo_pass (side x : Side) (lane : Nat) (l : Lsd) :
    ((l.undo side lane .pass none).table.get x).length = (l.table.get x).length := by
  unfold undo
  split
  · exact table_length_write side x lane .block none l
  · rfl

end Lsd

/-! ## The entries of the Spare Lane Map (R124) -/

section Entries

variable {s t : State} {side : Side} {lane : Nat} {x : Claim}

theorem laneEntry_setLane (side y : Side) (lane n : Nat) (e : LaneEntry) (s : State) :
    laneEntry (setLane side lane e s) y n =
      if y = side ∧ n = lane then (laneEntry s y n).map fun _ => e else laneEntry s y n := by
  by_cases spare : isSpare s lane = true
  case neg =>
    rw [setLane, if_neg spare]
    split
    next here => simp [laneEntry, here.2, spare]
    next => rfl
  case pos =>
    have kept : isSpare (s.setLanes side (modifyAt (lane - s.plan.spareBase) (fun _ => e) (s.lanes.get side))) n =
      isSpare s n := rfl
    simp only [setLane, spare, if_true, laneEntry, kept, State.setLanes_lanes, Both.get_set]
    by_cases spareToo : isSpare s n = true
    case neg => simp [spareToo]
    case pos =>
      have base : n - s.plan.spareBase = lane - s.plan.spareBase ↔ n = lane := by
        simp only [isSpare, Bool.and_eq_true, decide_eq_true_eq] at spare spareToo
        omega
      have plan : (s.setLanes side (modifyAt (lane - s.plan.spareBase) (fun _ => e) (s.lanes.get side))).plan = s.plan := rfl
      by_cases same : y = side
      · subst same
        simp [spareToo, plan, modifyAt_getElem?, base]
      · simp [spareToo, same, plan]

theorem isSpare_of_claimAt (there : claimAt s side lane = some x) : isSpare s lane = true := by
  rw [← Bool.not_eq_false]
  intro outside
  simp only [claimAt, laneEntry, outside, Bool.false_eq_true, if_false, Option.bind_none, reduceCtorEq] at there

theorem laneEntry_of_claimAt (there : claimAt s side lane = some x) :
    ∃ e, laneEntry s side lane = some e ∧ e.claim = some x :=
  Option.bind_eq_some_iff.1 there

theorem claimAt_of_held (held : laneEntry s side lane = some (.held x)) : claimAt s side lane = some x := by
  rw [claimAt, held]
  rfl

@[simp] theorem freedEntry_claim (s : State) (side : Side) : (freedEntry s side).claim = none := by
  unfold freedEntry
  split <;> rfl

theorem claimAt_of_freed (freed : laneEntry t side lane = some (freedEntry s side)) : claimAt t side lane = none := by
  rw [claimAt, freed, Option.bind_some, freedEntry_claim]

theorem freeLane_eq (side : Side) (lane : Nat) (s : State) : freeLane side lane s = setLane side lane (freedEntry s side) s := rfl

theorem setLane_lsd (side : Side) (lane : Nat) (e : LaneEntry) (s : State) : (setLane side lane e s).lsd = s.lsd := by
  unfold setLane
  split <;> rfl

/-- An entry is Held at a transit: its freeing undoes its Pass (R138). -/
def undoesPass (s : State) (side : Side) (lane : Nat) : Bool :=
  match laneEntry s side lane with
  | some (.held x) => isTransit s x
  | _ => false

theorem undoesPass_of_held (held : laneEntry s side lane = some (.held x)) : undoesPass s side lane = isTransit s x := by
  simp only [undoesPass, held]

theorem undoesPass_iff :
    undoesPass s side lane = true ↔ ∃ x, laneEntry s side lane = some (.held x) ∧ isTransit s x = true := by
  unfold undoesPass
  split
  next y held =>
    simp only [held, Option.some.injEq, LaneEntry.held.injEq]
    exact ⟨fun transit => ⟨y, rfl, transit⟩, fun ⟨_, same, transit⟩ => same ▸ transit⟩
  next notHeld => simp only [Bool.false_eq_true, false_iff]; exact fun ⟨x, held, _⟩ => notHeld x held

end Entries

/-! ## Freeing entries on some lanes (R138, R145, R146) -/

/-- Nothing but the Spare Lane Map and the lane switch changes. -/
def MapOnly (s t : State) : Prop := t = { s with lanes := t.lanes, lsd := t.lsd }

namespace MapOnly

variable {s t u : State}

theorem refl (s : State) : MapOnly s s := rfl

theorem trans (h : MapOnly s t) (k : MapOnly t u) : MapOnly s u := by
  unfold MapOnly at *
  rw [k, h]

theorem setLane (side : Side) (lane : Nat) (e : LaneEntry) (s : State) : MapOnly s (setLane side lane e s) := by
  unfold Machine.setLane
  split <;> rfl

theorem pld_eq (h : MapOnly s t) : t.pld = s.pld := by rw [h]

theorem nrv_eq (h : MapOnly s t) : t.nrv = s.nrv := by rw [h]

theorem plan_eq (h : MapOnly s t) : t.plan = s.plan := by rw [State.plan, h.pld_eq, State.plan]

theorem ident_eq (h : MapOnly s t) : t.ident = s.ident := by rw [State.ident, h.plan_eq, State.ident]

theorem node_eq (h : MapOnly s t) : t.node = s.node := by rw [State.node, h.ident_eq, State.node]

theorem ring_eq (h : MapOnly s t) : t.ring = s.ring := by rw [State.ring, h.ident_eq, State.ring]

theorem isTransit_eq (h : MapOnly s t) (x : Claim) : isTransit t x = isTransit s x := by
  unfold isTransit
  rw [h.node_eq]

theorem freedEntry_eq (h : MapOnly s t) (side : Side) : freedEntry t side = freedEntry s side := by
  unfold freedEntry lockedOf State.sideSpan
  rw [h.ident_eq, h.nrv_eq]

theorem onBrokenArc_eq (h : MapOnly s t) (span : Nat) (x : Claim) : onBrokenArc t span x = onBrokenArc s span x := by
  unfold onBrokenArc
  rw [h.node_eq, h.ring_eq]

end MapOnly

/-! ### One entry -/

section OneEntry

variable {s : State} {side : Side} {lane : Nat} {x : Claim}

theorem freeEntry_of_claim (there : claimAt s side lane = some x) :
    freeEntry side lane s =
      if undoesPass s side lane = true then laneUndo side lane .pass none (freeLane side lane s) else freeLane side lane s := by
  obtain ⟨e, entry, claim⟩ := laneEntry_of_claimAt there
  cases e with
  | free => cases claim
  | blocked => cases claim
  | pending y deadline => simp only [freeEntry, undoesPass, entry, Bool.false_eq_true, if_false]
  | held y => simp only [freeEntry, undoesPass, entry]

theorem mapOnly_freeEntry (there : claimAt s side lane = some x) : MapOnly s (freeEntry side lane s) := by
  have freed : MapOnly s (freeLane side lane s) := MapOnly.setLane side lane _ s
  rw [freeEntry_of_claim there]
  split
  · exact freed.trans rfl
  · exact freed

theorem laneEntry_freeEntry (there : claimAt s side lane = some x) (y : Side) (n : Nat) :
    laneEntry (freeEntry side lane s) y n =
      if y = side ∧ n = lane then some (freedEntry s side) else laneEntry s y n := by
  obtain ⟨e, entry, -⟩ := laneEntry_of_claimAt there
  have switched : laneEntry (freeEntry side lane s) y n = laneEntry (freeLane side lane s) y n := by
    rw [freeEntry_of_claim there]
    split <;> rfl
  rw [switched, freeLane_eq, laneEntry_setLane]
  split
  next here => rw [here.1, here.2, entry, Option.map_some]
  next => rfl

theorem lsd_freeEntry (there : claimAt s side lane = some x) :
    (freeEntry side lane s).lsd = if undoesPass s side lane = true then s.lsd.undo side lane .pass none else s.lsd := by
  have kept : (freeLane side lane s).lsd = s.lsd := setLane_lsd side lane _ s
  rw [freeEntry_of_claim there]
  split
  · rw [laneUndo, kept, State.setLsd_lsd]
  · exact kept

theorem claimAt_freeEntry (there : claimAt s side lane = some x) : claimAt (freeEntry side lane s) side lane = none := by
  rw [claimAt, laneEntry_freeEntry there, if_pos ⟨rfl, rfl⟩, Option.bind_some, freedEntry_claim]

end OneEntry

/-! ### Entries on some lanes -/

/-- An entry and its cross-connect record are as they were. -/
structure PlaceKept (s t : State) (side : Side) (lane : Nat) : Prop where
  entry : laneEntry t side lane = laneEntry s side lane
  record : t.lsd.record side lane = s.lsd.record side lane

/-- An entry that had a claim is freed, and its Pass undone when it was Held at a transit. -/
structure PlaceFreed (s t : State) (side : Side) (lane : Nat) : Prop where
  claimed : claimAt s side lane ≠ none
  entry : laneEntry t side lane = some (freedEntry s side)
  record : lane < (s.lsd.table.get side).length →
    t.lsd.record side lane =
      if undoesPass s side lane = true then (s.lsd.record side lane).passUndone else s.lsd.record side lane

/-- Some entries on lanes that satisfy `p` are freed, each with the undo of its Pass; nothing else changes. -/
structure Frees (p : Nat → Prop) (s t : State) : Prop where
  frame : MapOnly s t
  place : ∀ side lane, PlaceKept s t side lane ∨ p lane ∧ PlaceFreed s t side lane
  lsd : (∀ side lane, p lane → undoesPass s side lane = false) → t.lsd = s.lsd
  extent : ∀ side, (t.lsd.table.get side).length = (s.lsd.table.get side).length

section Freeing

variable {p : Nat → Prop} {s t u : State} {side : Side} {lane : Nat} {x : Claim}

theorem PlaceKept.undoesPass_eq (h : MapOnly s t) (k : PlaceKept s t side lane) :
    undoesPass t side lane = undoesPass s side lane := by
  rw [Bool.eq_iff_iff, undoesPass_iff, undoesPass_iff]
  simp only [k.entry, h.isTransit_eq]

theorem PlaceFreed.undoesPass_eq (k : PlaceFreed s t side lane) : undoesPass t side lane = false := by
  rw [← Bool.not_eq_true, undoesPass_iff]
  rintro ⟨x, held, -⟩
  exact Option.some_ne_none x ((claimAt_of_held held).symm.trans (claimAt_of_freed k.entry))

namespace Frees

theorem refl (p : Nat → Prop) (s : State) : Frees p s s :=
  ⟨.refl s, fun _ _ => .inl ⟨rfl, rfl⟩, fun _ => rfl, fun _ => rfl⟩

/-- A claim that stands was there before. -/
theorem claimAt_before (h : Frees p s t) (there : claimAt t side lane = some x) : claimAt s side lane = some x := by
  obtain kept | ⟨-, freed⟩ := h.place side lane
  · rwa [claimAt, kept.entry] at there
  · rw [claimAt_of_freed freed.entry] at there
    cases there

theorem undoesPass_before (h : Frees p s t) (undoes : undoesPass s side lane = false) : undoesPass t side lane = false := by
  obtain kept | ⟨-, freed⟩ := h.place side lane
  · rw [kept.undoesPass_eq h.frame, undoes]
  · exact freed.undoesPass_eq

theorem trans (h : Frees p s t) (k : Frees p t u) : Frees p s u where
  frame := h.frame.trans k.frame
  extent := fun side => (k.extent side).trans (h.extent side)
  lsd := fun noPass => (k.lsd fun side lane on => h.undoesPass_before (noPass side lane on)).trans (h.lsd noPass)
  place := by
    intro side lane
    obtain first | ⟨on, first⟩ := h.place side lane
    · obtain second | ⟨on, second⟩ := k.place side lane
      · exact .inl ⟨second.entry.trans first.entry, second.record.trans first.record⟩
      · refine .inr ⟨on, ?_, ?_, fun within => ?_⟩
        · rw [claimAt, ← first.entry]
          exact second.claimed
        · rw [second.entry, h.frame.freedEntry_eq]
        · rw [second.record (h.extent side ▸ within), first.record, first.undoesPass_eq h.frame]
    · obtain second | ⟨-, second⟩ := k.place side lane
      · exact .inr ⟨on, first.claimed, second.entry.trans first.entry,
          fun within => second.record.trans (first.record within)⟩
      · exact absurd (claimAt_of_freed first.entry) second.claimed

/-- The freeing of one entry that has a claim. -/
theorem freeEntry (on : p lane) (there : claimAt s side lane = some x) : Frees p s (freeEntry side lane s) where
  frame := mapOnly_freeEntry there
  place := by
    intro y n
    have entry := laneEntry_freeEntry there y n
    by_cases here : y = side ∧ n = lane
    · obtain ⟨rfl, rfl⟩ := here
      refine .inr ⟨on, there ▸ Option.some_ne_none x, entry.trans (if_pos ⟨rfl, rfl⟩), fun within => ?_⟩
      rw [lsd_freeEntry there]
      split
      · simp only [Lsd.record_undo_pass, within, and_self, if_true]
      · rfl
    · refine .inl ⟨entry.trans (if_neg here), ?_⟩
      rw [lsd_freeEntry there]
      split
      · exact (Lsd.record_undo_pass side y lane n s.lsd).trans
          (if_neg fun ⟨sameSide, sameLane, _⟩ => here ⟨sameSide, sameLane⟩)
      · rfl
  lsd := fun noPass => (lsd_freeEntry there).trans (if_neg (by simp [noPass side lane on]))
  extent := by
    intro y
    rw [lsd_freeEntry there]
    split
    · exact Lsd.table_length_undo_pass side y lane s.lsd
    · rfl

end Frees

/-! ### The entries of one attempt -/

/-- The entry of a side is freed when it matches an attempt (R138). -/
def freeMatching (lane id head tag : Nat) (side : Side) (s : State) : State :=
  if entryMatches s side lane id head tag then freeEntry side lane s else s

theorem freeAttempt_eq (lane id head tag : Nat) (s : State) :
    freeAttempt lane id head tag s = freeMatching lane id head tag .west (freeMatching lane id head tag .east s) := rfl

theorem entryMatches_iff {id head tag : Nat} :
    entryMatches s side lane id head tag = true ↔ ∃ x, claimAt s side lane = some x ∧ x.matches id head tag = true :=
  Option.any_eq_true ..

theorem Frees.freeMatching (on : p lane) (id head tag : Nat) (side : Side) (s : State) :
    Frees p s (freeMatching lane id head tag side s) := by
  unfold Machine.freeMatching
  split
  next hit =>
    obtain ⟨x, there, -⟩ := entryMatches_iff.1 hit
    exact .freeEntry on there
  next => exact .refl p s

theorem Frees.freeAttempt (on : p lane) (id head tag : Nat) (s : State) : Frees p s (freeAttempt lane id head tag s) :=
  (freeMatching on id head tag .east s).trans (freeMatching on id head tag .west _)

theorem entryMatches_freeMatching (lane id head tag : Nat) (side : Side) (s : State) :
    entryMatches (freeMatching lane id head tag side s) side lane id head tag = false := by
  unfold freeMatching
  split
  next hit =>
    obtain ⟨x, there, -⟩ := entryMatches_iff.1 hit
    rw [entryMatches, claimAt_freeEntry there, Option.any_none]
  next miss => exact Bool.eq_false_iff.2 miss

/-- No entry of the attempt is left. -/
theorem entryMatches_freeAttempt (lane id head tag : Nat) (side : Side) (s : State) :
    entryMatches (freeAttempt lane id head tag s) side lane id head tag = false := by
  rw [freeAttempt_eq]
  cases side with
  | west => exact entryMatches_freeMatching lane id head tag .west _
  | east =>
    rw [← Bool.not_eq_true, entryMatches_iff]
    rintro ⟨x, there, hit⟩
    have before := (Frees.freeMatching (p := fun _ => True) trivial id head tag .west _).claimAt_before there
    have left := entryMatches_iff.2 ⟨x, before, hit⟩
    rw [entryMatches_freeMatching] at left
    cases left

/-! ### Every claim of a kind (R145, R146) -/

theorem mem_mapPlaces (spare : isSpare s lane = true) (side : Side) : (side, lane) ∈ mapPlaces s := by
  simp only [isSpare, Bool.and_eq_true, decide_eq_true_eq] at spare
  have counted : ∃ k < Config.lanes - s.plan.spareBase, s.plan.spareBase + k = lane :=
    ⟨lane - s.plan.spareBase, by omega, by omega⟩
  cases side <;> simpa [mapPlaces] using counted

/-- One place of a pass over the map. -/
def freePlace (q : State → Claim → Bool) (s : State) (place : Side × Nat) : State :=
  match claimAt s place.1 place.2 with
  | some x => if q s x then freeAttempt place.2 x.id x.head x.tag s else s
  | none => s

theorem freeWhere_eq (q : State → Claim → Bool) (s : State) : freeWhere q s = (mapPlaces s).foldl (freePlace q) s := rfl

theorem freePlace_spec {q : State → Claim → Bool} {broken : Claim → Prop} (s : State) (side : Side) (lane : Nat)
    (judges : ∀ x, q s x = true ↔ broken x) (on : ∀ x, claimAt s side lane = some x → broken x → p lane) :
    Frees p s (freePlace q s (side, lane)) ∧
      ∀ x, claimAt (freePlace q s (side, lane)) side lane = some x → ¬ broken x := by
  unfold freePlace
  split
  next x there =>
    split
    next hit =>
      have freed : Frees p s (freeAttempt lane x.id x.head x.tag s) :=
        .freeAttempt (on x there ((judges x).1 hit)) x.id x.head x.tag s
      refine ⟨freed, fun y left => ?_⟩
      obtain rfl : x = y := Option.some.inj (there.symm.trans (freed.claimAt_before left))
      have found := entryMatches_iff.2 ⟨x, left, (by simp [Claim.matches] : x.matches x.id x.head x.tag = true)⟩
      rw [entryMatches_freeAttempt] at found
      cases found
    next miss =>
      refine ⟨.refl p s, fun y left hit => miss ?_⟩
      obtain rfl : x = y := Option.some.inj (there.symm.trans left)
      exact (judges x).2 hit
  next absent => exact ⟨.refl p s, fun y left => by rw [absent] at left; cases left⟩

/-- A pass over some places frees entries on lanes of broken claims alone, and leaves no broken claim at the places. -/
theorem foldl_freePlace_spec {q : State → Claim → Bool} {broken : Claim → Prop} (places : List (Side × Nat)) (s : State)
    (judges : ∀ t, MapOnly s t → ∀ x, q t x = true ↔ broken x)
    (on : ∀ side lane x, claimAt s side lane = some x → broken x → p lane) :
    Frees p s (places.foldl (freePlace q) s) ∧
      ∀ side lane, (side, lane) ∈ places → ∀ x, claimAt (places.foldl (freePlace q) s) side lane = some x →
        ¬ broken x := by
  induction places generalizing s with
  | nil => exact ⟨.refl p s, fun _ _ inNil => by cases inNil⟩
  | cons place rest ih =>
    obtain ⟨side, lane⟩ := place
    obtain ⟨first, clear⟩ := freePlace_spec (p := p) s side lane (judges s (.refl s)) (on side lane)
    obtain ⟨others, clears⟩ := ih (freePlace q s (side, lane)) (fun t h => judges t (first.frame.trans h))
      (fun y n x there => on y n x (first.claimAt_before there))
    refine ⟨first.trans others, fun y n visited x left => ?_⟩
    obtain here | later := List.mem_cons.1 visited
    · cases here
      exact clear x (others.claimAt_before left)
    · exact clears y n later x left

/-- A lane where some side's claim is broken. -/
def BrokenLane (s : State) (broken : Claim → Prop) (lane : Nat) : Prop := ∃ side x, claimAt s side lane = some x ∧ broken x

/-- R145, R146: every entry of a broken claim is freed, and only lanes of such claims are touched. -/
theorem freeWhere_spec {q : State → Claim → Bool} {broken : Claim → Prop} (s : State)
    (judges : ∀ t, MapOnly s t → ∀ x, q t x = true ↔ broken x) :
    Frees (BrokenLane s broken) s (freeWhere q s) ∧
      ∀ side lane x, claimAt s side lane = some x → broken x → PlaceFreed s (freeWhere q s) side lane := by
  rw [freeWhere_eq]
  obtain ⟨frees, clears⟩ := foldl_freePlace_spec (p := BrokenLane s broken) (mapPlaces s) s judges
    fun side _ x there hit => ⟨side, x, there, hit⟩
  refine ⟨frees, fun side lane x there hit => ?_⟩
  obtain kept | ⟨-, freed⟩ := frees.place side lane
  · have left := (congrArg (·.bind LaneEntry.claim) kept.entry).trans there
    exact absurd hit (clears side lane (mem_mapPlaces (isSpare_of_claimAt there) side) x left)
  · exact freed

end Freeing

/-! ## Locked changes (R126) -/

theorem LaneEntry.afterLock_eq (locked : Bool) (e : LaneEntry) :
    e.afterLock locked = if e = .free ∨ e = .blocked then (if locked then .blocked else .free) else e := by
  cases e <;> simp [afterLock]

/-- A side's entries after Locked of a span has changed: those of a side that faces it follow. -/
def entriesAfterLock (faced span : Nat) (locked : Bool) (es : List LaneEntry) : List LaneEntry :=
  if faced = span then es.map (LaneEntry.afterLock locked) else es

theorem entriesAfterLock_eq (faced span : Nat) (locked : Bool) (es : List LaneEntry) :
    entriesAfterLock faced span locked es =
      if faced = span then
        es.map fun e => if e = .free ∨ e = .blocked then (if locked then .blocked else .free) else e
      else es := by
  unfold entriesAfterLock
  simp only [funext (LaneEntry.afterLock_eq locked)]

/-- The entries of one side after Locked of a span has changed. -/
def lockSide (span : Nat) (locked : Bool) (side : Side) (s : State) : State :=
  if s.ident.isSome && s.sideSpan side = span then s.setLanes side ((s.lanes.get side).map (LaneEntry.afterLock locked)) else s

theorem lockSide_eq {s : State} {i : Ident} (known : s.ident = some i) (span : Nat) (locked : Bool) (side : Side) :
    lockSide span locked side s = s.setLanes side (entriesAfterLock (i.span side) span locked (s.lanes.get side)) := by
  have faced : s.sideSpan side = i.span side := by rw [State.sideSpan, known]
  simp only [lockSide, entriesAfterLock, known, faced, Option.isSome_some, Bool.true_and, decide_eq_true_eq]
  split
  · rfl
  · rw [State.setLanes, Both.set_get]

theorem lockSpan_eq {s : State} {i : Ident} (known : s.ident = some i) (span : Nat) (locked : Bool) :
    lockSpan span locked s =
      { s with lanes := ⟨entriesAfterLock (i.span .east) span locked s.lanes.east,
                         entriesAfterLock (i.span .west) span locked s.lanes.west⟩ } := by
  have still (es : List LaneEntry) : (s.setLanes .east es).ident = some i := known
  show lockSide span locked .west (lockSide span locked .east s) = _
  rw [lockSide_eq known, lockSide_eq (still _)]
  rfl

/-! ## The commands -/

section Commands

variable {s : State} {rest : List DceHand}

theorem exec_dceLockedChange {span : Nat} {locked : Bool} (running : s.running = true)
    (front : s.toDce = .locked span locked :: rest) :
    exec .dceLockedChange s = .next (lockSpan span locked (s.setToDce rest)) := by
  show execDceLockedChange s = _
  simp only [execDceLockedChange, front, running, if_true]

theorem exec_selfClean {span : Nat} {old new : SpanStatus} (running : s.running = true)
    (front : s.toDce = .status span old new :: rest) :
    exec .selfClean s = .next (if new = .failed then cleanSpan span (s.setToDce rest) else s.setToDce rest) := by
  show execSelfClean s = _
  simp only [execSelfClean, front, running, if_true]

theorem exec_dceRestart {node : Nat} (running : s.running = true) (front : s.toDce = .restart node :: rest) :
    exec .dceRestart s = .next (cleanHead node (s.setToDce rest)) := by
  show execDceRestart s = _
  simp only [execDceRestart, front, running, if_true]

theorem onBrokenArc_iff {span : Nat} {x : Claim} :
    onBrokenArc s span x = true ↔ x.head ≠ s.node ∧ span ∈ arcSpans s.ring x.head x.tail x.dir := by
  simp only [onBrokenArc, Bool.and_eq_true, decide_eq_true_eq, List.contains_iff_mem]

/-- A hand-off that frees is one pass over the map (R145, R146), whose judgement does not change on the way. -/
theorem exec_frees {c : Instr} {hand : DceHand} {broken : Claim → Prop} (running : s.running = true)
    (front : s.toDce = hand :: rest)
    (kind : c = .selfClean ∧ (∃ span old, hand = .status span old .failed ∧
        broken = fun x => x.head ≠ s.node ∧ span ∈ arcSpans s.ring x.head x.tail x.dir) ∨
      c = .dceRestart ∧ ∃ node, hand = .restart node ∧ broken = fun x => x.head = node) :
    ∃ q : State → Claim → Bool, exec c s = .next (freeWhere q (s.setToDce rest)) ∧
      ∀ t, MapOnly (s.setToDce rest) t → ∀ x, q t x = true ↔ broken x := by
  obtain ⟨rfl, span, old, rfl, rfl⟩ | ⟨rfl, node, rfl, rfl⟩ := kind
  · refine ⟨fun t x => onBrokenArc t span x, exec_selfClean running front, fun t h x => ?_⟩
    exact (Bool.eq_iff_iff.1 (h.onBrokenArc_eq span x)).trans onBrokenArc_iff
  · exact ⟨fun _ x => x.head = node, exec_dceRestart running front, fun _ _ _ => decide_eq_true_iff⟩

end Commands

/-- Settles O51: a Locked change side by side, a change to another status than Failed by its taking alone, and the two that free
by what a pass over the map makes of each place. -/
theorem dceHandOffsBlockAndFree : Obligations.DceHandOffsBlockAndFree := by
  refine ⟨fun s i span locked rest running known front => ?locked, fun s span old new rest running other front => ?other,
    fun s c hand rest broken running front kind => ?frees⟩
  case locked =>
    rw [exec_dceLockedChange running front, lockSpan_eq (s := s.setToDce rest) known, entriesAfterLock_eq, entriesAfterLock_eq]
    rfl
  case other => rw [exec_selfClean running front, if_neg other]
  case frees =>
    obtain ⟨q, answered, judges⟩ := exec_frees running front kind
    obtain ⟨frees, freed⟩ := freeWhere_spec (s.setToDce rest) judges
    have kept (side : Side) (lane : Nat) (unbroken : ∀ y x, claimAt s y lane = some x → ¬ broken x) :
        PlaceKept (s.setToDce rest) (freeWhere q (s.setToDce rest)) side lane :=
      (frees.place side lane).resolve_right fun ⟨⟨y, x, there, hit⟩, _⟩ => unbroken y x there hit
    refine ⟨_, answered, frees.frame, fun side lane x there hit => (freed side lane x there hit).entry,
      fun side lane unbroken => (kept side lane unbroken).entry, fun noPass => frees.lsd ?_,
      fun whole => ⟨fun side lane x held hit transit => ?_, fun side lane unbroken => (kept side lane unbroken).record⟩⟩
    · rintro side lane ⟨other, y, there, hit⟩
      rw [← Bool.not_eq_true, undoesPass_iff]
      rintro ⟨x, held, transit⟩
      exact Bool.false_ne_true ((noPass side other lane x y held there hit).symm.trans transit)
    · have there := claimAt_of_held held
      have spare := isSpare_of_claimAt there
      simp only [isSpare, Bool.and_eq_true, decide_eq_true_eq] at spare
      have undoes := (undoesPass_of_held (s := s.setToDce rest) held).trans transit
      exact ((freed side lane x there hit).record ((whole side).symm ▸ spare.2)).trans (if_pos undoes)

end Sys2Proof.Machine
end

section
/-! SUPPORT. Proofs for the Management Port's judgement of a command frame (11): the form that all frames share, and the outcome
of each step of R181. -/

namespace Sys2Proof.Machine

/-! ## The steps of R181 -/

section Judgement

variable {s : State} {inStart : Bool} {act : State → State}

/-- R182: a frame that comes while a response is owed is not looked at. -/
theorem command_of_owed (out : s.rstnLow = false) (owed : s.mgp.owed ≠ []) : command inStart act s = answerBusy s := by
  simp [command, occupied, out, owed]

theorem answerBusy_of_room (room : busyOwed s < 255) : answerBusy s = reply .busy s := if_pos room

theorem answerBusy_of_full (full : 255 ≤ busyOwed s) : answerBusy s = s := if_neg (Nat.not_lt.2 full)

/-- R181 step 4: in START no command but Status Query is carried out. -/
theorem command_in_start (out : s.rstnLow = false) (owed : s.mgp.owed = []) (noReset : s.mgp.resetDue = false)
    (start : s.pld.mode = .start) : command false act s = reply .notReady s := by
  simp [command, occupied, out, owed, noReset, start, reply]

theorem command_of_ready (out : s.rstnLow = false) (owed : s.mgp.owed = []) (noReset : s.mgp.resetDue = false)
    (ready : s.pld.mode ≠ .start ∨ inStart = true) : command inStart act s = act s := by
  have passes : ¬(s.pld.mode = .start ∧ inStart = false) := by
    rintro ⟨start, notThere⟩
    obtain mode | there := ready
    · exact mode start
    · exact Bool.false_ne_true (notThere.symm.trans there)
  simp [command, occupied, out, owed, noReset, passes]

end Judgement

/-! ## The form of every command frame -/

/-- A frame's command goes through the judgement of R181, with an action that answers BadParameter where its parameters do not
decode. -/
def IsJudged (c : Instr) : Prop :=
  ∃ act : State → State, (∀ s, exec c s = .next (command (answeredInStart c) act s)) ∧
    (paramsBad c = true → act = reply .badParameter)

theorem isJudged_of_params {c : Instr} {α : Type} {q : Option α} {act : α → State → State}
    (meaning : ∀ s, exec c s = .next (command (answeredInStart c) (withParams q act) s)) (bad : paramsBad c = q.isNone) :
    IsJudged c := by
  refine ⟨withParams q act, meaning, fun undecoded => ?_⟩
  obtain rfl : q = none := Option.isNone_iff_eq_none.1 (bad.symm.trans undecoded)
  rfl

/-- R181 steps 2 and 3: the status of a frame that names no command. -/
def badFrameStatus : BadFrameWhy → Status
  | .abandoned => .badFrame
  | .badCheck => .badFrame
  | .unknownCode => .invalidCommand

theorem exec_badFrame (why : BadFrameWhy) (s : State) :
    exec (.badFrame why) s = .next (command true (reply (badFrameStatus why)) s) := by
  cases why
  · rfl
  · rfl
  · rfl

theorem isJudged_of_isCommandFrame {c : Instr} (frame : isCommandFrame c = true) : IsJudged c := by
  cases c with
  | statusQuery p | spanQuery p | circuitQuery p | circuitFind p | laneQuery p | portQuery p | planQuery p
  | circuitRequestPin p | circuitRequestForced p | circuitRequestManual p | circuitRequestReturn p | circuitRequestClear p
  | setForcedOut p | clearForcedOut p | setSparesLocked p | clearSparesLocked p | demote p | restorePlan p | freezePlan p
  | rehomePort p | loopTest p | fetchEvents p | warmReset p => exact isJudged_of_params (fun _ => rfl) rfl
  | badFrame why => exact ⟨_, exec_badFrame why, fun bad => by cases bad⟩
  | _ => cases frame

/-- R182, R191: the oldest owed response leaves the list when its last byte is sent. -/
theorem exec_responseSendComplete {s : State} {r : Response} {rest : List Response} (out : s.rstnLow = false)
    (owed : s.mgp.owed = r :: rest) :
    exec .responseSendComplete s =
      .next (s.setMgp { s.mgp with owed := rest, resetDue := s.mgp.resetDue || r.warmReset }) := by
  show execResponseSendComplete s = _
  simp [execResponseSendComplete, owed, out]

/-- Settles O59: every frame's command has the one form, whose outcome is given step by step of R181. -/
theorem commandFramesAreJudgedInOrder : Obligations.CommandFramesAreJudgedInOrder := by
  refine ⟨fun s c out frame => ?judged, fun s takes => ?warmReset, fun s r rest out owed => exec_responseSendComplete out owed⟩
  case warmReset => exact congrArg Host.Outcome.next (command_of_takesCommands takes false _)
  case judged =>
    obtain ⟨act, meaning, badParameter⟩ := isJudged_of_isCommandFrame frame
    have badFrameAnswered (owed : s.mgp.owed = []) (noReset : s.mgp.resetDue = false) (why : BadFrameWhy) :
        exec (.badFrame why) s = .next (reply (badFrameStatus why) s) := by
      rw [exec_badFrame, command_of_ready out owed noReset (.inr rfl)]
    refine ⟨fun owed room => ?busy, fun owed full => ?silent, fun owed noReset => ⟨?badFrame, ?unknown, ?notReady, ?params⟩⟩
    case busy => rw [meaning, command_of_owed out owed, answerBusy_of_room room]; rfl
    case silent => rw [meaning, command_of_owed out owed, answerBusy_of_full full]
    case badFrame =>
      rintro (rfl | rfl)
      · exact badFrameAnswered owed noReset .abandoned
      · exact badFrameAnswered owed noReset .badCheck
    case unknown =>
      rintro rfl
      exact badFrameAnswered owed noReset .unknownCode
    case notReady =>
      intro start other
      rw [meaning, other, command_in_start out owed noReset start]; rfl
    case params =>
      intro ready bad
      rw [meaning, command_of_ready out owed noReset ready, badParameter bad]; rfl

end Sys2Proof.Machine
end

section
/-! SUPPORT. Proofs for the queries of the Management Port (11, 12 R199): what each answers, and the bytes of their data. -/

namespace Sys2Proof.Machine

/-! ## Answers -/

section Answers

variable {s : State} {p : List Byte}

/-- R181 step 7: a frame that passes the judgement has its command's meaning, on the operand that its parameters spell. -/
theorem exec_of_params {c : Instr} {α : Type} {q : Option α} {a : α} {inStart : Bool} {act : α → State → State}
    (takes : s.takesCommands) (decoded : q = some a) (meaning : exec c s = .next (command inStart (withParams q act) s)) :
    exec c s = .next (act a s) := by
  rw [meaning, command_of_takesCommands takes, decoded]
  rfl

theorem exec_spanQuery {span : Nat} (takes : s.takesCommands) (decoded : byteParam p = some span) :
    exec (.spanQuery p) s = .next (spanQueryOf span s) :=
  exec_of_params takes decoded rfl

theorem exec_circuitQuery {id : Nat} (takes : s.takesCommands) (decoded : idParam p = some id) :
    exec (.circuitQuery p) s = .next (withCircuit id (fun c => answer fun _ => circuitData c) s) :=
  exec_of_params takes decoded (act := fun id => withCircuit id fun c => answer fun _ => circuitData c) rfl

theorem exec_planQuery {id : Nat} (takes : s.takesCommands) (decoded : idParam p = some id) :
    exec (.planQuery p) s = .next (withCircuit id (fun c => answer fun _ => planData c) s) :=
  exec_of_params takes decoded (act := fun id => withCircuit id fun c => answer fun _ => planData c) rfl

theorem exec_circuitFind {f : FindParams} (takes : s.takesCommands) (decoded : findParams p = some f) :
    exec (.circuitFind p) s = .next (circuitFindOf f s) :=
  exec_of_params takes decoded rfl

theorem exec_laneQuery {place : Side × Nat} (takes : s.takesCommands) (decoded : laneParams p = some place) :
    exec (.laneQuery p) s = .next (laneQueryOf place s) :=
  exec_of_params takes decoded rfl

theorem exec_portQuery {port : Nat} (takes : s.takesCommands) (decoded : portParam p = some port) :
    exec (.portQuery p) s = .next (answer (portData port) s) :=
  exec_of_params takes decoded (act := fun port => answer (portData port)) rfl

/-! ## Span Query (R184) -/

theorem spanQueryOf_inside {i : Ident} {span : Nat} (known : s.ident = some i) (inside : span < i.ring) :
    spanQueryOf span s = answer (spanData i span) s := by
  simp only [spanQueryOf, known, if_pos inside]

theorem spanQueryOf_outside {i : Ident} {span : Nat} (known : s.ident = some i) (outside : i.ring ≤ span) :
    spanQueryOf span s = reply .badParameter s := by
  simp only [spanQueryOf, known, if_neg (Nat.not_lt.2 outside)]

theorem sideOfCode_sideCode (side : Side) : Side.ofCode side.code = some side := by
  cases side
  · rfl
  · rfl

theorem sideOfCode_eq_none {code : Nat} (large : 2 ≤ code) : Side.ofCode code = none := by
  obtain ⟨k, rfl⟩ := Nat.exists_eq_add_of_le' large
  rfl

theorem spanQueryOf_stranger (unknown : s.ident = none) (side : Side) :
    spanQueryOf side.code s = answer (strangerData side) s := by
  simp only [spanQueryOf, unknown, sideOfCode_sideCode]

theorem spanQueryOf_noSide {code : Nat} (unknown : s.ident = none) (large : 2 ≤ code) :
    spanQueryOf code s = reply .badParameter s := by
  simp only [spanQueryOf, unknown, sideOfCode_eq_none large]

/-! ## Circuit Query, Plan Query, Circuit Find (R186, R187) -/

theorem withCircuit_of_found {id : Nat} {c : Circuit} (found : findCircuit s id = some c) (act : Circuit → State → State) :
    withCircuit id act s = act c s := by
  simp only [withCircuit, found]

theorem withCircuit_of_unknown {id : Nat} (unknown : findCircuit s id = none) (act : Circuit → State → State) :
    withCircuit id act s = reply .unknownId s := by
  simp only [withCircuit, unknown]

/-- R187: the first match from the start index on is the one found. -/
theorem findIndex_eq_some {f : FindParams} {cs : List Circuit} {i : Nat} {c : Circuit} (start : f.start ≤ i)
    (here : cs[i]? = some c) (hit : findMatches f c = true)
    (first : ∀ j d, f.start ≤ j → j < i → cs[j]? = some d → findMatches f d = false) : findIndex f cs = some i := by
  obtain ⟨k, rfl⟩ := Nat.exists_eq_add_of_le start
  obtain ⟨inside, there⟩ := List.getElem?_eq_some_iff.1 here
  have found : (cs.drop f.start).findIdx? (findMatches f) = some k := by
    refine List.findIdx?_eq_some_iff_getElem.2 ⟨by rw [List.length_drop]; omega, ?_, fun j before => ?_⟩
    · rw [List.getElem_drop, there]; exact hit
    · rw [List.getElem_drop, first (f.start + j) _ (Nat.le_add_right ..) (by omega) (List.getElem?_eq_getElem (by omega))]
      exact Bool.false_ne_true
  rw [findIndex, found, Option.map_some]

theorem findIndex_eq_none {f : FindParams} {cs : List Circuit}
    (noMatch : ∀ j d, f.start ≤ j → cs[j]? = some d → findMatches f d = false) : findIndex f cs = none := by
  have missed : (cs.drop f.start).findIdx? (findMatches f) = none := by
    refine List.findIdx?_eq_none_iff.2 fun d dropped => ?_
    obtain ⟨j, there⟩ := List.mem_iff_getElem?.1 dropped
    exact noMatch (f.start + j) d (Nat.le_add_right ..) (List.getElem?_drop ▸ there)
  rw [findIndex, missed, Option.map_none]

theorem circuitFindOf_found {f : FindParams} {i : Nat} {c : Circuit} (found : findIndex f s.circuits = some i)
    (here : s.circuits[i]? = some c) : circuitFindOf f s = owe ⟨.done, byte i :: bytes2 c.id, false⟩ s := by
  simp only [circuitFindOf, found, answer, here, Option.map_some, Option.getD_some]

theorem circuitFindOf_noMatch {f : FindParams} (missed : findIndex f s.circuits = none) :
    circuitFindOf f s = reply .noMatch s := by
  simp only [circuitFindOf, missed]

theorem findMatches_iff (f : FindParams) (c : Circuit) :
    findMatches f c = true ↔
      (∀ r, f.role = some r → c.role.code = r) ∧ (∀ b, f.bundle = some b → c.bundle = b) ∧
      (∀ t, f.state = some t → c.role ≠ .transit ∧ c.state.code = t) := by
  simp only [findMatches, Circuit.isEnd, Bool.and_eq_true, Option.all_eq_true, decide_eq_true_eq, bne_iff_ne]
  exact and_right_comm.trans and_assoc

/-! ## Lane Query (R185) -/

theorem laneEntry_of_not_spare {lane : Nat} (outside : lane < s.plan.spareBase ∨ 48 ≤ lane) (side : Side) :
    laneEntry s side lane = none := by
  refine if_neg fun spare => ?_
  simp only [isSpare, Bool.and_eq_true, decide_eq_true_eq] at spare
  obtain ⟨above, below⟩ := spare
  obtain low | high := outside
  · exact Nat.not_le.2 low above
  · exact Nat.not_le.2 below high

theorem laneQueryOf_found {side : Side} {lane : Nat} {e : LaneEntry} (found : laneEntry s side lane = some e) :
    laneQueryOf (side, lane) s = answer (fun _ => laneData e) s := by
  simp only [laneQueryOf, found]

theorem laneQueryOf_noEntry {side : Side} {lane : Nat} (missing : laneEntry s side lane = none) :
    laneQueryOf (side, lane) s = reply .badParameter s := by
  simp only [laneQueryOf, missing]

end Answers

/-! ## A set of lanes (12 R199) -/

/-- The number whose bits below `m` are the lanes of a set: `laneSet` sends the one of all lanes. -/
def laneBits (lanes : List Nat) (m : Nat) : Nat :=
  (List.range m).foldl (fun n lane => if lanes.contains lane then n + 2 ^ lane else n) 0

theorem laneSet_eq (lanes : List Nat) : laneSet lanes = bytes6 (laneBits lanes 48) := rfl

theorem laneBits_succ (lanes : List Nat) (m : Nat) :
    laneBits lanes (m + 1) = if lanes.contains m then laneBits lanes m + 2 ^ m else laneBits lanes m := by
  rw [laneBits, List.range_succ, List.foldl_append]
  rfl

theorem laneBits_lt (lanes : List Nat) (m : Nat) : laneBits lanes m < 2 ^ m := by
  induction m with
  | zero => exact Nat.zero_lt_one
  | succ m ih =>
    rw [laneBits_succ, Nat.pow_succ]
    split
    · omega
    · omega

theorem testBit_laneBits {lanes : List Nat} {m lane : Nat} (below : lane < m) :
    (laneBits lanes m).testBit lane = lanes.contains lane := by
  induction m with
  | zero => exact absurd below (Nat.not_lt_zero _)
  | succ m ih =>
    rw [laneBits_succ]
    obtain before | rfl := Nat.lt_succ_iff_lt_or_eq.1 below
    · rw [← ih before]
      split
      · rw [Nat.add_comm, Nat.testBit_two_pow_add_gt before]
      · rfl
    · have empty : (laneBits lanes lane).testBit lane = false := Nat.testBit_lt_two_pow (laneBits_lt lanes lane)
      split
      next there => rw [Nat.add_comm, Nat.testBit_two_pow_add_eq, empty, there]; rfl
      next absent => rw [empty]; exact (Bool.eq_false_iff.2 absent).symm

/-- 12: the most significant byte goes first, so byte `5 - k` holds the bits from `8 * k` on. -/
theorem bytes6_getElem? (n : Nat) {k : Nat} (inside : k < 6) : (bytes6 n)[5 - k]? = some (byte (n / 2 ^ (8 * k))) :=
  match k, inside with
  | 0, _ => congrArg (fun low => some (byte low)) (Nat.div_one n).symm
  | 1, _ => rfl
  | 2, _ => rfl
  | 3, _ => rfl
  | 4, _ => rfl
  | 5, _ => rfl

theorem testBit_byte_div (n k : Nat) {j : Nat} (inside : j < 8) :
    (byte (n / 2 ^ k)).toNat.testBit j = n.testBit (k + j) := by
  rw [BitVec.toNat_ofNat, Nat.testBit_mod_two_pow, Nat.testBit_div_two_pow, decide_eq_true inside, Bool.true_and, Nat.add_comm]

/-- 12 R199: lane 0 is the least significant bit of the last byte. -/
theorem laneSet_testBit (lanes : List Nat) {lane : Nat} (inside : lane < 48) :
    (laneSet lanes)[5 - lane / 8]?.map (fun b => b.toNat.testBit (lane % 8)) = some (lanes.contains lane) := by
  rw [laneSet_eq, bytes6_getElem? _ (by omega), Option.map_some, testBit_byte_div _ _ (Nat.mod_lt _ (by omega)),
    Nat.div_add_mod, testBit_laneBits inside]

/-! ## The bytes of a record (12 R199) -/

/-- The role of a record and its working and detour sides, as Circuit Query sends them. -/
def roleBytes (c : Circuit) : List Byte :=
  [byte c.role.code, workingSideByte c] ++ optByte (if c.isEnd then some c.detourSide.code else none)

section Roles

variable {c : Circuit}

theorem roleBytes_head (head : c.role = .head) : roleBytes c = [0x00, byte c.dir.code, byte c.dir.other.code] := by
  simp [roleBytes, workingSideByte, optByte, Circuit.isEnd, Circuit.detourSide, Circuit.workSide, head, Role.code]

theorem roleBytes_tail (tail : c.role = .tail) : roleBytes c = [0x01, byte c.dir.other.code, byte c.dir.code] := by
  have back : c.dir.other.other = c.dir := by cases c.dir <;> rfl
  simp [roleBytes, workingSideByte, optByte, Circuit.isEnd, Circuit.detourSide, Circuit.workSide, tail, Role.code, back]

theorem roleBytes_transit (transit : c.role = .transit) : roleBytes c = [0x02, 0x02, 0xFF] := by
  simp [roleBytes, workingSideByte, optByte, Circuit.isEnd, transit, Role.code]

theorem runTimeData_head (head : c.role = .head) :
    runTimeData c = [byte c.state.code, byte c.request.code, byte (c.detour.getD 0xFF), byte (c.parked.getD 0xFF), byte c.tag,
      byte c.count] ++ laneSet c.excluded ++ deadlineBytes c.claimTimeout ++ deadlineBytes c.waitToRestore ++
      [0xFF, byte c.reason.code] := by
  simp [runTimeData, head, optByte, absent]

theorem runTimeData_tail (tail : c.role = .tail) :
    runTimeData c = [byte c.state.code, 0xFF, byte (c.detour.getD 0xFF), 0xFF, byte c.tag] ++ List.replicate 19 0xFF ++
      [byte c.headNode, 0xFF] := by
  simp [runTimeData, tail, optByte, absent]

theorem runTimeData_transit (transit : c.role = .transit) : runTimeData c = List.replicate 26 0xFF := by
  simp only [runTimeData, transit, absent]

end Roles

/-- 12 R199: the bytes of Circuit Query, those that depend on the record's role apart. -/
theorem circuitData_eq (c : Circuit) :
    circuitData c =
      bytes2 c.id ++ [byte c.a, byte c.z, byte c.dir.code, byte c.lane] ++ roleBytes c ++
      [byte c.planClass.rank, byte c.cls.rank, byte (c.preplanned.getD 0xFF), byte c.priority, byte c.bundle,
        if c.revertive then 0x01 else 0x00] ++ bytes2 c.ceiling ++ bytes2 c.allowance ++ [byte (c.port.getD 0xFF)] ++
      runTimeData c := by
  simp only [circuitData, roleBytes, optByte, byte_bit, List.append_assoc, List.cons_append, List.nil_append]

theorem planData_eq (c : Circuit) :
    planData c = bytes2 c.id ++ [byte c.a, byte c.z, byte c.dir.code, byte c.lane, byte c.planClass.rank,
      byte (c.preplanned.getD 0xFF), byte c.priority, byte c.bundle, if c.revertive then 0x01 else 0x00] ++
      bytes2 c.ceiling ++ bytes2 c.allowance ++ [byte (c.port.getD 0xFF)] := by
  simp only [planData, optByte, byte_bit, List.append_assoc, List.cons_append, List.nil_append]

/-! ## Lengths -/

@[simp] theorem bytes2_length (n : Nat) : (bytes2 n).length = 2 := rfl

@[simp] theorem bytes6_length (n : Nat) : (bytes6 n).length = 6 := rfl

@[simp] theorem absent_length (n : Nat) : (absent n).length = n := List.length_replicate

@[simp] theorem optByte_length (v : Option Nat) : (optByte v).length = 1 := rfl

@[simp] theorem laneSet_length (lanes : List Nat) : (laneSet lanes).length = 6 := rfl

@[simp] theorem deadlineBytes_length (d : Deadline) : (deadlineBytes d).length = 6 := by
  cases d
  · rfl
  · rfl

@[simp] theorem reportBytes_length (r : Option Report) : (reportBytes r).length = 5 := by
  cases r
  · rfl
  · rfl

@[simp] theorem sideBytes_length (s : State) (side : Option Side) : (sideBytes s side).length = 8 := by
  cases side
  · rfl
  · rfl

@[simp] theorem roleBytes_length (c : Circuit) : (roleBytes c).length = 3 := rfl

@[simp] theorem runTimeData_length (c : Circuit) : (runTimeData c).length = 26 := by
  cases role : c.role with
  | head => simp [runTimeData_head role]
  | tail => simp [runTimeData_tail role]
  | transit => simp [runTimeData_transit role]

theorem circuitData_length (c : Circuit) : (circuitData c).length = 46 := by
  simp [circuitData_eq]

theorem spanData_length (i : Ident) (span : Nat) (s : State) : (spanData i span s).length = 23 := by
  simp [spanData]

theorem laneData_length (e : LaneEntry) : (laneData e).length = 16 := by
  cases e
  case free => rfl
  case blocked => rfl
  case pending x d => rfl
  case held x => rfl

theorem portData_length (port : Nat) (s : State) : (portData port s).length = 9 := by
  cases owner : (portAt s port).owner with
  | none => simp [portData, owner]
  | some id => simp [portData, owner]

/-- Settles O56: each query's answer by the lemmas of its operation, and the bytes by those of their fields. -/
theorem queriesAnswerFromTheState : Obligations.QueriesAnswerFromTheState := by
  intro s p takes done refused key
  refine ⟨fun span i decoded known => ⟨fun inside => ?inside, fun outside => ?outside⟩,
    fun code decoded unknown => ⟨?stranger, fun large => ?noSide⟩,
    fun id decoded => ⟨fun c found => ⟨?circuit, ?plan⟩, fun missing => ⟨?noCircuit, ?noPlan⟩⟩,
    fun f decoded => ⟨fun i c start here hit first => ?found, fun missed => ?noMatch⟩,
    fun side lane decoded => ⟨fun e found => ?lane, fun outside => ?noLane⟩,
    fun port decoded => exec_portQuery takes decoded, findMatches_iff, fun c => ?circuitBytes, planData_eq,
    fun v => ⟨rfl, rfl⟩, fun lanes lane inside => laneSet_testBit lanes inside, ⟨rfl, rfl⟩, fun x d => rfl, fun x => rfl,
    circuitData_length, fun i span => spanData_length i span s, laneData_length, fun port => portData_length port s⟩
  case inside => exact (exec_spanQuery takes decoded).trans (congrArg _ (spanQueryOf_inside known inside))
  case outside => exact (exec_spanQuery takes decoded).trans (congrArg _ (spanQueryOf_outside known outside))
  case stranger =>
    rintro side rfl
    exact (exec_spanQuery takes decoded).trans (congrArg _ (spanQueryOf_stranger unknown side))
  case noSide => exact (exec_spanQuery takes decoded).trans (congrArg _ (spanQueryOf_noSide unknown large))
  case circuit => exact (exec_circuitQuery takes decoded).trans (congrArg _ (withCircuit_of_found found _))
  case plan => exact (exec_planQuery takes decoded).trans (congrArg _ (withCircuit_of_found found _))
  case noCircuit => exact (exec_circuitQuery takes decoded).trans (congrArg _ (withCircuit_of_unknown missing _))
  case noPlan => exact (exec_planQuery takes decoded).trans (congrArg _ (withCircuit_of_unknown missing _))
  case found =>
    have index := findIndex_eq_some start here hit first
    exact (exec_circuitFind takes decoded).trans (congrArg _ (circuitFindOf_found index here))
  case noMatch =>
    exact (exec_circuitFind takes decoded).trans (congrArg _ (circuitFindOf_noMatch (findIndex_eq_none missed)))
  case lane => exact (exec_laneQuery takes decoded).trans (congrArg _ (laneQueryOf_found found))
  case noLane =>
    have missing := laneEntry_of_not_spare outside side
    exact (exec_laneQuery takes decoded).trans (congrArg _ (laneQueryOf_noEntry missing))
  case circuitBytes =>
    rw [circuitData_eq]
    cases role : c.role with
    | head => rw [roleBytes_head role, runTimeData_head role]
    | tail => rw [roleBytes_tail role, runTimeData_tail role]
    | transit => rw [roleBytes_transit role, runTimeData_transit role]

end Sys2Proof.Machine
end

section
/-! SUPPORT. Proofs for the queue of waiting commands: which command a step executes, and that no command reaches the queue. -/

namespace Sys2Proof.Machine

/-- With no command waiting the block idles (Log 3). -/
theorem step_of_pending_nil {s : State} (empty : s.pending = []) : step s = .next s := by
  unfold step
  rw [empty]

theorem step_of_pending_cons {s : State} {c : Instr} {rest : List Instr} (waiting : s.pending = c :: rest) :
    step s = exec c { s with pending := rest } := by
  unfold step
  rw [waiting]

/-- Settles O1, by the two forms of the queue. -/
theorem stepExecutesTheFrontCommand : Obligations.StepExecutesTheFrontCommand := by
  refine ⟨fun c rest s => ?front, fun s empty => step_of_pending_nil empty⟩
  case front => exact step_of_pending_cons (s := { s with pending := c :: rest }) rfl

/-- Settles O2, from the lemma about each command's meaning: the next state that it answers keeps the waiting commands. -/
theorem everyCommandAnswersNext : Obligations.EveryCommandAnswersNext := by
  intro c s
  obtain ⟨t, answered, queueKept, -⟩ := exec_answersLawfully c s
  exact ⟨t, answered, queueKept⟩

end Sys2Proof.Machine
end
